-- ==== Sys2Proof/Word.lean ====
section
/-! DEFINITION. The word types of the block: bytes, node ids, byte sequences (spec/00_scope.md R12, R13;
spec/10_state.md R30). -/

namespace Sys2Proof

/-- A byte: 8 bits, unsigned (00_scope.md R12). -/
abbrev Byte := BitVec 8

/-- A node id: an 8-bit unsigned number (10_state.md R30). -/
abbrev NodeId := BitVec 8

/-- A byte sequence; index 0 goes first onto the wire, into a cipher block and into a MAC input (00_scope.md R13). -/
abbrev Bytes := List Byte

/-- A sequence of exactly 8 bytes: what `NonceOf` answers (00_scope.md R11). -/
abbrev EightBytes := Vector Byte 8

end Sys2Proof
end

