-- ==== Sys2Proof/Syntax.lean ====
section
/-! DEFINITION. The data types of the block and its instructions, one constructor of `Instr` per row of
spec/opcode_table.json (spec/10_state.md R20 to R36, spec/30_encoding.md R89 to R94). -/

namespace Sys2Proof

/-- The name of an expected-response predicate. A predicate is a function, so State holds its number and `Config.expect`
gives its meaning (00_scope.md R11; log entry 7). -/
abbrev PredId := Nat

/-- The handle the host gives a transaction (10_state.md R36). -/
abbrev TxnId := Nat

/-- What an expected-response predicate says of a Message (10_state.md R24). -/
inductive Verdict
  | final | confirmation | fatal | unrelated
deriving DecidableEq, Repr, Inhabited

/-- A Message: a decoded Data frame with an optional expected-response predicate (10_state.md R24). -/
structure Message where
  type : Byte
  funcId : Byte
  payload : Bytes
  expect : Option PredId
deriving DecidableEq, Repr, Inhabited

/-- Two Messages are equal when type, funcId and payload are equal (10_state.md R24). -/
def Message.same (a b : Message) : Bool :=
  a.type == b.type && a.funcId == b.funcId && a.payload == b.payload

/-- The error and reason codes of 60_exceptions.md R340, in the order of its table. One code space serves `raise` and
`Reason`. -/
inductive ErrCode
  | precondition | noKey | noNonce | notReady
  | keyLength | nonceLength | nonceNotFound | macMismatch | payloadFormat | nonceTableFull
  | maxAttempts | nodeDead | nodeRemoved | driverDestroyed | dropped
  | linkNak | linkCan | ackTimeout | responseTimeout | updateTimeout | fatalResponse
deriving DecidableEq, Repr, Inhabited

/-- `Outcome` of 10_state.md R25: the outcome slot of a transaction. -/
inductive TxnOutcome
  | pending
  | success (reply : Option Message)
  | failure (reason : ErrCode) (cause : Option ErrCode)
deriving DecidableEq, Repr, Inhabited

/-- The operand of `TM.ADD`: a transaction record without `created`, `attempts`, `outcome` (30_encoding.md R92,
10_state.md R36). `maxAttempts = none` is a host that gives none (log entry 16). -/
structure TxnSpec where
  id : TxnId
  msg : Message
  hsMsg : Option Message
  node : Option NodeId
  priority : Nat
  maxAttempts : Option Nat
  expectsUpdate : Bool
  secure : Bool
  secCmd : Byte
  secPlain : Bytes
  isPing : Bool
  partialReports : List Message
deriving DecidableEq, Repr, Inhabited

/-- A transaction record (10_state.md R36). `partialReports` is the rule's `partial`. -/
structure Txn where
  id : TxnId
  msg : Message
  hsMsg : Option Message
  node : Option NodeId
  priority : Nat
  created : Nat
  attempts : Nat
  maxAttempts : Nat
  expectsUpdate : Bool
  secure : Bool
  secCmd : Byte
  secPlain : Bytes
  isPing : Bool
  outcome : TxnOutcome
  partialReports : List Message
deriving DecidableEq, Repr, Inhabited

/-- The key of a nonce entry: issuer and nonce id (10_state.md R33). -/
structure NonceKey where
  issuer : NodeId
  id : Byte
deriving DecidableEq, Repr, Inhabited

/-- A nonce entry (10_state.md R33). -/
structure NonceEntry where
  nonce : Bytes
  receiver : NodeId
  free : Bool
  created : Nat
deriving DecidableEq, Repr, Inhabited

/-- The nonce table `NT`: a finite map, kept with strictly rising keys (10_state.md R33; log entry 18). -/
abbrev NonceTable := List (NonceKey × NonceEntry)

/-- The predicate operand of `TM.REJECT` (44_transaction_fsm.md R272): the two the spec writes out
(`fun _ => true`, 70_reset_and_hazards.md R382; `fun t => t.node = some n`, 45_host_boundary.md R304), and any other, named
by a number whose meaning is `Config.txnPred` (log entry 7). -/
inductive TxnPred
  | all
  | nodeIs (n : NodeId)
  | named (k : Nat)
deriving DecidableEq, Repr, Inhabited

/-- The instructions: every row of spec/opcode_table.json. -/
inductive Instr
  /-- `ACK` (40_frame_decode.md R112). -/
  | ack
  /-- `NAK` (R113). -/
  | nak
  /-- `CAN` (R114). -/
  | can
  /-- `DATA.BADLEN` (R119): `body` is the `len` bytes after the length byte. -/
  | dataBadlen (len : Byte) (body : Bytes)
  /-- `DATA.CSFAIL` (R118): `body` is the `len` bytes after the length byte, the wrong checksum last. -/
  | dataCsfail (len : Byte) (body : Bytes)
  /-- `DATA.REQ` (R116). -/
  | dataReq (funcId : Byte) (payload : Bytes)
  /-- `DATA.RES` (R117). -/
  | dataRes (funcId : Byte) (payload : Bytes)
  /-- `DATA.OTHER` (R120). -/
  | dataOther (type funcId : Byte) (payload : Bytes)
  /-- `SKIP` (R121). -/
  | skip (b : Byte)
  /-- `DATA (encode)`, the table's `DATA__encode`: `Serialize` (41_frame_encode.md R141). -/
  | dataEncode (type funcId : Byte) (payload : Bytes)
  /-- `RX.BYTE b` (40_frame_decode.md R111). -/
  | rxByte (b : Byte)
  /-- `TX.EMIT` (41_frame_encode.md R144). -/
  | txEmit
  /-- `TM.DISPATCH` (44_transaction_fsm.md R251). -/
  | tmDispatch
  /-- `TM.TIMEOUT(ack)` (R257). -/
  | tmTimeoutAck
  /-- `TM.TIMEOUT(resp)` (R259). -/
  | tmTimeoutResp
  /-- `TM.TIMEOUT(upd)` (R265). -/
  | tmTimeoutUpd
  /-- `TM.TIMEOUT(retry)` (R267). -/
  | tmTimeoutRetry
  /-- `RX.TIMEOUT` (40_frame_decode.md R124). -/
  | rxTimeout
  /-- `NT.EXPIRE issuer id` (43_nonce_and_security_ops.md R206). -/
  | ntExpire (issuer : NodeId) (id : Byte)
  /-- `SYS.RESET` (70_reset_and_hazards.md R381). -/
  | sysReset
  /-- `SYS.DESTROY` (R382). -/
  | sysDestroy
  /-- `SYS.SETID id` (43_nonce_and_security_ops.md R200). -/
  | sysSetid (id : NodeId)
  /-- `SYS.STATUS` (60_exceptions.md R364). -/
  | sysStatus
  /-- `SE.SETKEY key` (42_cipher_core.md R179). -/
  | seSetkey (key : Bytes)
  /-- `SE.ENCRYPT` (R180). -/
  | seEncrypt (plaintext senderNonce receiverNonce : Bytes)
  /-- `SE.DECRYPT` (R181). -/
  | seDecrypt (ciphertext senderNonce receiverNonce : Bytes)
  /-- `SE.MAC` (R182). -/
  | seMac (senderNonce receiverNonce : Bytes) (commandId : Byte) (sender receiver : NodeId) (ciphertext : Bytes)
  /-- `SE.VERIFY` (R183). -/
  | seVerify (senderNonce receiverNonce : Bytes) (commandId : Byte) (sender receiver : NodeId) (ciphertext mac : Bytes)
  /-- `SE.SEAL` (43_nonce_and_security_ops.md R210). -/
  | seSeal (receiver : NodeId) (commandId : Byte) (plaintext : Bytes) (nonceId : Option Byte)
  /-- `SE.OPEN` (R212). -/
  | seOpen (sender : NodeId) (commandId : Byte) (senderNonce ciphertext : Bytes) (nonceId : Byte) (mac : Bytes)
  /-- `NT.GENERATE forNode` (R201). -/
  | ntGenerate (forNode : NodeId)
  /-- `NT.STORE issuer nonce receiver free` (R202). -/
  | ntStore (issuer : NodeId) (nonce : Bytes) (receiver : NodeId) (free : Bool)
  /-- `NT.FINDFREE issuer` (R203). -/
  | ntFindfree (issuer : NodeId)
  /-- `NT.RELEASE issuer id` (R205). -/
  | ntRelease (issuer : NodeId) (id : Byte)
  /-- `NT.TAKE issuer id` (R204). -/
  | ntTake (issuer : NodeId) (id : Byte)
  /-- `TM.ADD t0` (44_transaction_fsm.md R248). -/
  | tmAdd (t : TxnSpec)
  /-- `TM.REJECT P reason` (R272). -/
  | tmReject (p : TxnPred) (reason : ErrCode)
  /-- `TM.NODE_ASLEEP n` (R274). -/
  | tmNodeAsleep (node : NodeId)
deriving DecidableEq, Repr, Inhabited

/-- One move of one agent (00_scope.md R9), as it reaches the block's ports: `rx` a byte on `rx` (Link-in), `emit`
Link-out's turn, `dispatch` TM's own turn, `cmd` a host command's bytes, `tmr` a timer event's bytes, `serialize` a call
of the encoder with its operands by value (log entry 11). -/
inductive Move
  | rx (b : Byte)
  | emit
  | dispatch
  | cmd (w : Bytes)
  | tmr (w : Bytes)
  | serialize (type funcId : Byte) (payload : Bytes)
deriving DecidableEq, Repr, Inhabited

/-- The host predicates as they read now (45_host_boundary.md R304): the nodes for which each is true. -/
structure HostPins where
  listening : List NodeId
  asleep : List NodeId
  dead : List NodeId
deriving DecidableEq, Repr, Inhabited

/-- What the environment does next: a move of an agent, or a change of the host predicates, which "may change between any
two steps" (45_host_boundary.md R304). -/
inductive Input
  | move (m : Move)
  | pins (p : HostPins)
deriving DecidableEq, Repr, Inhabited

end Sys2Proof
end

