-- ==== Sys2Proof/Config.lean ====
section
/-! DEFINITION. What the platform and the host fix: the constants of spec/00_scope.md R8, and the configuration functions,
the random bytes and the open durations, which are fields of ONE constant without a body. -/

namespace Sys2Proof

/-- `TYPE_REQ` (30_encoding.md R85). PRESUMED by the spec from general knowledge; unsafe (log entry 17). -/
def Config.typeReq : Byte := 0x00
/-- `TYPE_RES` (30_encoding.md R85). PRESUMED by the spec from general knowledge; unsafe (log entry 17). -/
def Config.typeRes : Byte := 0x01
/-- `MAX_PAYLOAD` (30_encoding.md R84). -/
def Config.maxPayload : Nat := 252
/-- `MAX_FRAME` (30_encoding.md R84) and `RXBUF_CAP` (10_state.md R21). -/
def Config.maxFrame : Nat := 257
/-- `NONCE_LEN` (00_scope.md R8). -/
def Config.nonceLen : Nat := 8
/-- `KEY_LEN` (00_scope.md R8). -/
def Config.keyLen : Nat := 16
/-- `MAC_LEN` (00_scope.md R8). -/
def Config.macLen : Nat := 8
/-- `MAX_ATTEMPTS_DEFAULT` (10_state.md R36). -/
def Config.maxAttemptsDefault : Nat := 3
/-- `PRIO_CONTROLLER` (45_host_boundary.md R301). -/
def Config.prioController : Nat := 0
/-- `PRIO_HANDSHAKE` (45_host_boundary.md R301). -/
def Config.prioHandshake : Nat := 1
/-- `PRIO_IMMEDIATE` (45_host_boundary.md R301). -/
def Config.prioImmediate : Nat := 2
/-- `PRIO_NODEQUERY` (45_host_boundary.md R301). -/
def Config.prioNodeQuery : Nat := 3
/-- `PRIO_POLL` (45_host_boundary.md R301). -/
def Config.prioPoll : Nat := 4
/-- `PRIO_WAKEUP` (45_host_boundary.md R301). -/
def Config.prioWakeup : Nat := 5
/-- `T_ACK` in milliseconds (44_transaction_fsm.md R246). It names a timer and enters no rule (00_scope.md R8). -/
def Config.tAckMs : Nat := 1600
/-- The floor of `T_RETRY` in milliseconds (44_transaction_fsm.md R246). It enters no rule. -/
def Config.tRetryFloorMs : Nat := 500

/-- The configuration: what the source leaves to software above the block and to the platform (00_scope.md R8, R11;
92_eei_decisions.md part 2). The rules assume of each function only that it is total. -/
structure Config where
  /-- The expected-response predicates, by number (10_state.md R24). -/
  expect : PredId → Message → Verdict
  /-- The predicates a host passes to `TM.REJECT`, by number (44_transaction_fsm.md R272). -/
  txnPred : Nat → Txn → Bool
  /-- `IsUpdate` (44_transaction_fsm.md R264). -/
  isUpdate : Txn → Message → Bool
  /-- `NeedHS` where the host gives one; `none` is the default definition of 44_transaction_fsm.md R250. -/
  needHS : Option (Txn → NonceTable → Bool)
  /-- `NonceOf` (44_transaction_fsm.md R262). -/
  nonceOf : Message → Option EightBytes
  /-- `SecLayout` of transaction, sender nonce, ciphertext, nonce id and MAC (44_transaction_fsm.md R258). -/
  secLayout : Txn → Bytes → Bytes → Byte → Bytes → Bytes
  /-- The bytes of the `rnd` port, by how many were read before (00_scope.md R10; log entry 10). -/
  rnd : Nat → Byte
  /-- The free order in which `TM.NODE_ASLEEP` drops pings: a rank for each transaction, fresh for every use
  (44_transaction_fsm.md R274 gives no order; log entry 13). -/
  dropOrder : Nat → Txn → Nat
  /-- `T_RESP`, OPEN; enters no rule (00_scope.md R8). -/
  tRespMs : Nat
  /-- `T_UPDATE`, OPEN; enters no rule. -/
  tUpdateMs : Nat
  /-- `T_RETRY` beyond its floor, by the attempt count, OPEN; enters no rule. -/
  tRetryExtraMs : Nat → Nat
  /-- `T_RXFRAME`, OPEN; enters no rule. -/
  tRxFrameMs : Nat
  /-- `NONCE_TTL`, OPEN; enters no rule. -/
  nonceTtlMs : Nat
deriving Inhabited

/-- `T_RETRY`: a function of the attempt count, never below 500 ms (44_transaction_fsm.md R246). It enters no rule. -/
def Config.tRetryMs (c : Config) (attempts : Nat) : Nat := Config.tRetryFloorMs + c.tRetryExtraMs attempts

/-- The configuration of the machine: no body, so that nothing can be proved of any of its functions or values, and a
statement about the machine holds for all of them (log entries 7 to 10, 13). -/
opaque Config.host : Config

end Sys2Proof
end

