-- ==== Sys2Proof/Machine/Wire.lean ====
section
/-! DEFINITION. The serial wire format: markers, checksum, the serializer and the parse function
(spec/30_encoding.md R80 to R91, spec/40_frame_decode.md R110, spec/41_frame_encode.md R140, R141). -/

namespace Sys2Proof

/-- `SOF` (30_encoding.md R80). -/
def sofByte : Byte := 0x01
/-- `ACK` (30_encoding.md R80). -/
def ackByte : Byte := 0x06
/-- `NAK` (30_encoding.md R80). -/
def nakByte : Byte := 0x15
/-- `CAN` (30_encoding.md R80). -/
def canByte : Byte := 0x18

/-- `xorfold` (00_scope.md R13). -/
def xorfold (s : Bytes) : Byte := s.foldr (· ^^^ ·) 0

/-- `s[i .. j]`: the elements from index i to index j inclusive, empty when j < i (00_scope.md R13). -/
def slice (s : Bytes) (i j : Nat) : Bytes := (s.drop i).take (j + 1 - i)

/-- Element-wise exclusive or of two sequences (00_scope.md R12). -/
def xorBytes (a b : Bytes) : Bytes := List.zipWith (· ^^^ ·) a b

/-- `zext_8` of a natural number (00_scope.md R14). -/
def toByte (n : Nat) : Byte := BitVec.ofNat 8 n

/-- `Checksum` (41_frame_encode.md R140). -/
def checksum (type funcId : Byte) (payload : Bytes) : Byte :=
  0xFF ^^^ toByte (payload.length + 3) ^^^ type ^^^ funcId ^^^ xorfold payload

/-- The bytes of a W2 frame (30_encoding.md R82). -/
def frameBytes (type funcId : Byte) (payload : Bytes) : Bytes :=
  [sofByte, toByte (payload.length + 3), type, funcId] ++ payload ++ [checksum type funcId payload]

/-- `Serialize` (41_frame_encode.md R141). -/
def serialize (type funcId : Byte) (payload : Bytes) : Except ErrCode Bytes :=
  if payload.length > Config.maxPayload then .error .precondition else .ok (frameBytes type funcId payload)

/-- A Data frame (10_state.md R20). -/
structure DataFrame where
  type : Byte
  funcId : Byte
  payload : Bytes
  checksum : Byte
deriving DecidableEq, Repr, Inhabited

/-- Frame (10_state.md R20). -/
inductive Frame
  | ack | nak | can
  | data (d : DataFrame)
deriving DecidableEq, Repr, Inhabited

/-- The reason of an `Invalid` outcome (40_frame_decode.md R118, R119). -/
inductive InvalidReason
  | checksum | length
deriving DecidableEq, Repr, Inhabited

/-- The result of `TryParse`; the number is how many bytes the caller removes (40_frame_decode.md R110). -/
inductive ParseOutcome
  | incomplete
  | skip (n : Nat)
  | frame (f : Frame) (n : Nat)
  | invalid (r : InvalidReason) (n : Nat)
deriving DecidableEq, Repr, Inhabited

/-- What `TryParse` answers once a whole declared frame of length byte `len` stands in `buf` (40_frame_decode.md R110). -/
def parseData (buf : Bytes) (len : Nat) : ParseOutcome :=
  if len < 3 then .invalid .length (len + 2)
  else if 0xFF ^^^ xorfold (slice buf 1 len) ≠ buf.getD (len + 1) 0 then .invalid .checksum (len + 2)
  else .frame (.data { type := buf.getD 2 0, funcId := buf.getD 3 0, payload := slice buf 4 len,
                       checksum := buf.getD (len + 1) 0 }) (len + 2)

/-- `TryParse` (40_frame_decode.md R110). -/
def tryParse (buf : Bytes) : ParseOutcome :=
  match buf with
  | [] => .incomplete
  | b :: rest =>
    if b = ackByte then .frame .ack 1
    else if b = nakByte then .frame .nak 1
    else if b = canByte then .frame .can 1
    else if b ≠ sofByte then .skip 1
    else match rest with
      | [] => .incomplete
      | len :: _ => if buf.length < len.toNat + 2 then .incomplete else parseData buf len.toNat

end Sys2Proof
end

