-- ==== Sys2Proof/WellFormed.lean ====
section
/-! DEFINITION. Which instructions an encoding of the spec can carry: the ranges of the wire rows of
spec/opcode_table.json (spec/30_encoding.md R82 to R90). The operands of host commands, timer events and internal steps
have no range: any value is legal (30_encoding.md R92 to R94). -/

namespace Sys2Proof

/-- A byte that is none of the four markers (30_encoding.md R89). -/
def isSkipByte (b : Byte) : Bool := b != ackByte && b != nakByte && b != canByte && b != sofByte

/-- A type byte that is neither `TYPE_REQ` nor `TYPE_RES` (30_encoding.md R90). -/
def isReservedType (t : Byte) : Bool := t != Config.typeReq && t != Config.typeRes

/-- A payload the one-byte length field can declare (30_encoding.md R84). -/
def fitsFrame (p : Bytes) : Bool := decide (p.length ≤ Config.maxPayload)

/-- The instruction is one its encoding can carry. -/
def Instr.wf (i : Instr) : Bool :=
  match i with
  | .ack => true
  | .nak => true
  | .can => true
  | .dataBadlen len body => decide (len.toNat < 3) && decide (body.length = len.toNat)
  | .dataCsfail len body =>
      decide (3 ≤ len.toNat) && decide (body.length = len.toNat) &&
        decide (0xFF ^^^ len ^^^ xorfold (body.take (len.toNat - 1)) ≠ body.getD (len.toNat - 1) 0)
  | .dataReq _ payload => fitsFrame payload
  | .dataRes _ payload => fitsFrame payload
  | .dataOther type _ payload => isReservedType type && fitsFrame payload
  | .skip b => isSkipByte b
  | .dataEncode _ _ _ => true
  | .rxByte _ => true
  | .txEmit => true
  | .tmDispatch => true
  | .tmTimeoutAck => true
  | .tmTimeoutResp => true
  | .tmTimeoutUpd => true
  | .tmTimeoutRetry => true
  | .rxTimeout => true
  | .ntExpire _ _ => true
  | .sysReset => true
  | .sysDestroy => true
  | .sysSetid _ => true
  | .sysStatus => true
  | .seSetkey _ => true
  | .seEncrypt _ _ _ => true
  | .seDecrypt _ _ _ => true
  | .seMac _ _ _ _ _ _ => true
  | .seVerify _ _ _ _ _ _ _ => true
  | .seSeal _ _ _ _ => true
  | .seOpen _ _ _ _ _ _ => true
  | .ntGenerate _ => true
  | .ntStore _ _ _ _ => true
  | .ntFindfree _ => true
  | .ntRelease _ _ => true
  | .ntTake _ _ => true
  | .tmAdd _ => true
  | .tmReject _ _ => true
  | .tmNodeAsleep _ => true

end Sys2Proof
end

