-- ==== Sys2Proof/Decode.lean ====
section
/-! DEFINITION. The decoder of each port and the encoder (spec/30_encoding.md R81 to R94). The wire formats W1 and W2 are
the spec's, bit for bit. A host command is its code byte of R92 followed by its operands; the bytes of the operands are the
model's own (R92 passes them by value; log entry 5), and so is the order of the key's bytes in a nonce expiry (R93). -/

namespace Sys2Proof

/-- Where an instruction is read from: the decode position of FC, which is the front of `RXBUF` (10_state.md R51), or a
move of an agent on a port. -/
inductive Source
  | line (buf : Bytes)
  | port (m : Move)
deriving DecidableEq, Repr, Inhabited

/-- Why the decoder reads no instruction, by name. -/
inductive DecodeError
  /-- No byte, or a Data frame whose bytes are not all present (40_frame_decode.md R122). -/
  | incomplete
  /-- A command code that is not in the table of 30_encoding.md R92. -/
  | unknownCommand (code : Byte)
  /-- The operand bytes after a command code of R92 are too few, too many or no value of the operand's type. -/
  | badOperands (code : Byte)
  /-- A `cmd` move that carries no code. -/
  | noCommand
  /-- A timer event that is none of 30_encoding.md R93. -/
  | unknownTimer (w : Bytes)
deriving DecidableEq, Repr, Inhabited

/-! ### The wire: format W1 and W2 -/

/-- The dispatch of a Data frame that passed length and checksum on its type byte (30_encoding.md R89). -/
def dataInstr (d : DataFrame) : Instr :=
  if d.type = Config.typeReq then .dataReq d.funcId d.payload
  else if d.type = Config.typeRes then .dataRes d.funcId d.payload
  else .dataOther d.type d.funcId d.payload

/-- The symbol at the front of a buffer (30_encoding.md R89). -/
def decodeLine (buf : Bytes) : Except DecodeError Instr :=
  match tryParse buf with
  | .incomplete => .error .incomplete
  | .skip _ => .ok (.skip (buf.getD 0 0))
  | .frame .ack _ => .ok .ack
  | .frame .nak _ => .ok .nak
  | .frame .can _ => .ok .can
  | .frame (.data d) _ => .ok (dataInstr d)
  | .invalid .checksum _ => .ok (.dataCsfail (buf.getD 1 0) (slice buf 2 ((buf.getD 1 0).toNat + 1)))
  | .invalid .length _ => .ok (.dataBadlen (buf.getD 1 0) (slice buf 2 ((buf.getD 1 0).toNat + 1)))

/-- How many bytes the symbol at the front of a buffer takes, 0 where there is none (40_frame_decode.md R110). -/
def lineLength (buf : Bytes) : Nat :=
  match tryParse buf with
  | .incomplete => 0
  | .skip n => n
  | .frame _ n => n
  | .invalid _ n => n

/-! ### Operand bytes of a host command: readers and writers -/

/-- A reader of one operand: the value and the bytes after it. -/
abbrev Reader (α : Type) := Bytes → Option (α × Bytes)

/-- Read one operand, then what it selects. -/
def readThen {α β : Type} (p : Reader α) (k : α → Reader β) : Reader β := fun w =>
  match p w with
  | none => none
  | some (a, rest) => k a rest

/-- Read nothing. -/
def readDone {α : Type} (a : α) : Reader α := fun w => some (a, w)

/-- One byte. -/
def readByte : Reader Byte := fun w =>
  match w with
  | [] => none
  | b :: rest => some (b, rest)

/-- A natural number: each byte 0xFF adds 255 and goes on, any other byte adds its value and ends. -/
def readNat : Reader Nat := fun w =>
  match w with
  | [] => none
  | b :: rest =>
    if b = 0xFF then
      match readNat rest with
      | none => none
      | some (n, r) => some (n + 255, r)
    else some (b.toNat, rest)

/-- A byte sequence: its length, then its bytes. -/
def readBytes : Reader Bytes :=
  readThen readNat fun n w => if w.length < n then none else some (w.take n, w.drop n)

/-- A truth value: 0 or 1. -/
def readBool : Reader Bool :=
  readThen readByte fun b w => if b = 0 then some (false, w) else if b = 1 then some (true, w) else none

/-- An optional value: 0, or 1 and the value. -/
def readOption {α : Type} (p : Reader α) : Reader (Option α) :=
  readThen readBool fun here => if here then readThen p fun a => readDone (some a) else readDone none

/-- `n` values one after another. -/
def readMany {α : Type} (p : Reader α) : Nat → Reader (List α)
  | 0 => readDone []
  | n + 1 => readThen p fun a => readThen (readMany p n) fun r => readDone (a :: r)

/-- A list: its length, then its elements. -/
def readList {α : Type} (p : Reader α) : Reader (List α) := readThen readNat fun n => readMany p n

/-- A Message: type, function id, payload, predicate number if it has one. -/
def readMessage : Reader Message :=
  readThen readByte fun type => readThen readByte fun funcId => readThen readBytes fun payload =>
    readThen (readOption readNat) fun expect => readDone { type, funcId, payload, expect }

/-- The operand record of `TM.ADD`, its fields in the order of 10_state.md R36. -/
def readTxnSpec : Reader TxnSpec :=
  readThen readNat fun id => readThen readMessage fun msg => readThen (readOption readMessage) fun hsMsg =>
  readThen (readOption readByte) fun node => readThen readNat fun priority =>
  readThen (readOption readNat) fun maxAttempts => readThen readBool fun expectsUpdate =>
  readThen readBool fun secure => readThen readByte fun secCmd => readThen readBytes fun secPlain =>
  readThen readBool fun isPing => readThen (readList readMessage) fun partialReports =>
    readDone { id, msg, hsMsg, node, priority, maxAttempts, expectsUpdate, secure, secCmd, secPlain, isPing, partialReports }

/-- The numeric value of an error or reason code (60_exceptions.md R340). -/
def errByte (e : ErrCode) : Byte :=
  match e with
  | .precondition => 0x01
  | .noKey => 0x02
  | .noNonce => 0x03
  | .notReady => 0x04
  | .keyLength => 0x10
  | .nonceLength => 0x11
  | .nonceNotFound => 0x12
  | .macMismatch => 0x13
  | .payloadFormat => 0x14
  | .nonceTableFull => 0x15
  | .maxAttempts => 0x20
  | .nodeDead => 0x21
  | .nodeRemoved => 0x22
  | .driverDestroyed => 0x23
  | .dropped => 0x24
  | .linkNak => 0x30
  | .linkCan => 0x31
  | .ackTimeout => 0x32
  | .responseTimeout => 0x33
  | .updateTimeout => 0x34
  | .fatalResponse => 0x35

/-- Every code of 60_exceptions.md R340. -/
def allErrCodes : List ErrCode :=
  [.precondition, .noKey, .noNonce, .notReady, .keyLength, .nonceLength, .nonceNotFound, .macMismatch, .payloadFormat,
   .nonceTableFull, .maxAttempts] ++
  [.nodeDead, .nodeRemoved, .driverDestroyed, .dropped, .linkNak, .linkCan, .ackTimeout, .responseTimeout, .updateTimeout,
   .fatalResponse]

/-- The code with a numeric value (60_exceptions.md R340). -/
def errOfByte (b : Byte) : Option ErrCode := allErrCodes.find? fun e => errByte e == b

/-- A reason, by its numeric value (60_exceptions.md R340). -/
def readReason : Reader ErrCode := readThen readByte fun b w =>
  match errOfByte b with
  | none => none
  | some e => some (e, w)

/-- The predicate operand of `TM.REJECT`: 0 all, 1 and a node, 2 and a number. -/
def readPred : Reader TxnPred := readThen readByte fun tag =>
  if tag = 0 then readDone .all
  else if tag = 1 then readThen readByte fun n => readDone (.nodeIs n)
  else if tag = 2 then readThen readNat fun k => readDone (.named k)
  else fun _ => none

/-- Writes what `readNat` reads. -/
def putNat (n : Nat) : Bytes := List.replicate (n / 255) 0xFF ++ [toByte (n % 255)]

/-- Writes what `readBytes` reads. -/
def putBytes (s : Bytes) : Bytes := putNat s.length ++ s

/-- Writes what `readBool` reads. -/
def putBool (b : Bool) : Bytes := if b then [1] else [0]

/-- Writes what `readOption` reads. -/
def putOption {α : Type} (put : α → Bytes) (o : Option α) : Bytes :=
  match o with
  | none => [0]
  | some a => 1 :: put a

/-- Writes what `readList` reads. -/
def putList {α : Type} (put : α → Bytes) (l : List α) : Bytes := putNat l.length ++ l.flatMap put

/-- Writes what `readMessage` reads. -/
def putMessage (m : Message) : Bytes := [m.type, m.funcId] ++ putBytes m.payload ++ putOption putNat m.expect

/-- Writes what `readTxnSpec` reads. -/
def putTxnSpec (t : TxnSpec) : Bytes :=
  putNat t.id ++ putMessage t.msg ++ putOption putMessage t.hsMsg ++ putOption (fun n => [n]) t.node ++
  putNat t.priority ++ putOption putNat t.maxAttempts ++ putBool t.expectsUpdate ++ putBool t.secure ++ [t.secCmd] ++
  putBytes t.secPlain ++ putBool t.isPing ++ putList putMessage t.partialReports

/-- Writes what `readPred` reads. -/
def putPred (p : TxnPred) : Bytes :=
  match p with
  | .all => [0]
  | .nodeIs n => [1, n]
  | .named k => 2 :: putNat k

/-! ### Format H: host commands -/

/-- The operands of the command with code `code`: `none` for a code that is not in the table of 30_encoding.md R92. -/
def commandReader (code : Byte) : Option (Reader Instr) :=
  match code.toNat with
  | 0x00 => some (readDone .sysReset)
  | 0x01 => some (readDone .sysDestroy)
  | 0x02 => some (readThen readByte fun id => readDone (.sysSetid id))
  | 0x03 => some (readDone .sysStatus)
  | 0x10 => some (readThen readBytes fun key => readDone (.seSetkey key))
  | 0x11 => some (readThen readBytes fun p => readThen readBytes fun sn => readThen readBytes fun rn =>
      readDone (.seEncrypt p sn rn))
  | 0x12 => some (readThen readBytes fun c => readThen readBytes fun sn => readThen readBytes fun rn =>
      readDone (.seDecrypt c sn rn))
  | 0x13 => some (readThen readBytes fun sn => readThen readBytes fun rn => readThen readByte fun cmd =>
      readThen readByte fun sender => readThen readByte fun receiver => readThen readBytes fun ct =>
      readDone (.seMac sn rn cmd sender receiver ct))
  | 0x14 => some (readThen readBytes fun sn => readThen readBytes fun rn => readThen readByte fun cmd =>
      readThen readByte fun sender => readThen readByte fun receiver => readThen readBytes fun ct =>
      readThen readBytes fun mac => readDone (.seVerify sn rn cmd sender receiver ct mac))
  | 0x15 => some (readThen readByte fun receiver => readThen readByte fun cmd => readThen readBytes fun p =>
      readThen (readOption readByte) fun nonceId => readDone (.seSeal receiver cmd p nonceId))
  | 0x16 => some (readThen readByte fun sender => readThen readByte fun cmd => readThen readBytes fun sn =>
      readThen readBytes fun ct => readThen readByte fun nonceId => readThen readBytes fun mac =>
      readDone (.seOpen sender cmd sn ct nonceId mac))
  | 0x20 => some (readThen readByte fun n => readDone (.ntGenerate n))
  | 0x21 => some (readThen readByte fun issuer => readThen readBytes fun nonce => readThen readByte fun receiver =>
      readThen readBool fun free => readDone (.ntStore issuer nonce receiver free))
  | 0x22 => some (readThen readByte fun issuer => readDone (.ntFindfree issuer))
  | 0x23 => some (readThen readByte fun issuer => readThen readByte fun id => readDone (.ntRelease issuer id))
  | 0x24 => some (readThen readByte fun issuer => readThen readByte fun id => readDone (.ntTake issuer id))
  | 0x30 => some (readThen readTxnSpec fun t => readDone (.tmAdd t))
  | 0x31 => some (readThen readPred fun p => readThen readReason fun r => readDone (.tmReject p r))
  | 0x32 => some (readThen readByte fun n => readDone (.tmNodeAsleep n))
  | _ => none

/-- The command that `code` and its operand bytes are: the operands are all of them (30_encoding.md R92). -/
def decodeCmd (w : Bytes) : Except DecodeError Instr :=
  match w with
  | [] => .error .noCommand
  | code :: operands =>
    match commandReader code with
    | none => .error (.unknownCommand code)
    | some p =>
      match p operands with
      | some (i, []) => .ok i
      | some (_, _ :: _) => .error (.badOperands code)
      | none => .error (.badOperands code)

/-! ### Format T: timer events -/

/-- The timer event of 30_encoding.md R93; that the issuer byte of a nonce expiry comes before the id byte is the model's own
(log entry 5). -/
def decodeTmr (w : Bytes) : Except DecodeError Instr :=
  match w with
  | [k] =>
    if k = 0x01 then .ok .tmTimeoutAck
    else if k = 0x02 then .ok .tmTimeoutResp
    else if k = 0x03 then .ok .tmTimeoutUpd
    else if k = 0x04 then .ok .tmTimeoutRetry
    else if k = 0x10 then .ok .rxTimeout
    else .error (.unknownTimer w)
  | [k, issuer, id] => if k = 0x20 then .ok (.ntExpire issuer id) else .error (.unknownTimer w)
  | _ => .error (.unknownTimer w)

/-! ### The decoder and the encoder -/

/-- The instruction an agent's move is (30_encoding.md R92 to R94). -/
def decodeMove (m : Move) : Except DecodeError Instr :=
  match m with
  | .rx b => .ok (.rxByte b)
  | .emit => .ok .txEmit
  | .dispatch => .ok .tmDispatch
  | .cmd w => decodeCmd w
  | .tmr w => decodeTmr w
  | .serialize t f p => .ok (.dataEncode t f p)

/-- The decoder: total on any source. -/
def decode (src : Source) : Except DecodeError Instr :=
  match src with
  | .line buf => decodeLine buf
  | .port m => decodeMove m

/-- The encoder (30_encoding.md R81 to R94). -/
def encode (i : Instr) : Source :=
  match i with
  | .ack => .line [ackByte]
  | .nak => .line [nakByte]
  | .can => .line [canByte]
  | .dataBadlen len body => .line (sofByte :: len :: body)
  | .dataCsfail len body => .line (sofByte :: len :: body)
  | .dataReq f p => .line (frameBytes Config.typeReq f p)
  | .dataRes f p => .line (frameBytes Config.typeRes f p)
  | .dataOther t f p => .line (frameBytes t f p)
  | .skip b => .line [b]
  | .dataEncode t f p => .port (.serialize t f p)
  | .rxByte b => .port (.rx b)
  | .txEmit => .port .emit
  | .tmDispatch => .port .dispatch
  | .tmTimeoutAck => .port (.tmr [0x01])
  | .tmTimeoutResp => .port (.tmr [0x02])
  | .tmTimeoutUpd => .port (.tmr [0x03])
  | .tmTimeoutRetry => .port (.tmr [0x04])
  | .rxTimeout => .port (.tmr [0x10])
  | .ntExpire issuer id => .port (.tmr [0x20, issuer, id])
  | .sysReset => .port (.cmd [0x00])
  | .sysDestroy => .port (.cmd [0x01])
  | .sysSetid id => .port (.cmd [0x02, id])
  | .sysStatus => .port (.cmd [0x03])
  | .seSetkey key => .port (.cmd (0x10 :: putBytes key))
  | .seEncrypt p sn rn => .port (.cmd (0x11 :: (putBytes p ++ putBytes sn ++ putBytes rn)))
  | .seDecrypt c sn rn => .port (.cmd (0x12 :: (putBytes c ++ putBytes sn ++ putBytes rn)))
  | .seMac sn rn cmd sender receiver ct =>
      .port (.cmd (0x13 :: (putBytes sn ++ putBytes rn ++ [cmd, sender, receiver] ++ putBytes ct)))
  | .seVerify sn rn cmd sender receiver ct mac =>
      .port (.cmd (0x14 :: (putBytes sn ++ putBytes rn ++ [cmd, sender, receiver] ++ putBytes ct ++ putBytes mac)))
  | .seSeal receiver cmd p nonceId =>
      .port (.cmd (0x15 :: ([receiver, cmd] ++ putBytes p ++ putOption (fun b => [b]) nonceId)))
  | .seOpen sender cmd sn ct nonceId mac =>
      .port (.cmd (0x16 :: ([sender, cmd] ++ putBytes sn ++ putBytes ct ++ [nonceId] ++ putBytes mac)))
  | .ntGenerate n => .port (.cmd [0x20, n])
  | .ntStore issuer nonce receiver free =>
      .port (.cmd (0x21 :: ([issuer] ++ putBytes nonce ++ [receiver] ++ putBool free)))
  | .ntFindfree issuer => .port (.cmd [0x22, issuer])
  | .ntRelease issuer id => .port (.cmd [0x23, issuer, id])
  | .ntTake issuer id => .port (.cmd [0x24, issuer, id])
  | .tmAdd t => .port (.cmd (0x30 :: putTxnSpec t))
  | .tmReject p r => .port (.cmd (0x31 :: (putPred p ++ [errByte r])))
  | .tmNodeAsleep n => .port (.cmd [0x32, n])

/-! ### Table words -/

/-- The bytes of a table word: offset 0 is the most significant byte, as 30_encoding.md R89 numbers the 24 bits of a W2
row (offset 0 in bits 23:16, `len` in bits 15:8, `type` in bits 7:0); log entry 6. -/
def tableBytes : Nat → Nat → Bytes
  | 0, _ => []
  | k + 1, w => toByte (w / 256 ^ k) :: tableBytes k w

/-- Operand bytes the table gives no bits: zeros. -/
def zeroBytes (n : Nat) : Bytes := List.replicate n 0

/-- A host command's code with as many zero operand bytes as its reader takes. -/
def commandZeros (code : Byte) : Bytes :=
  match commandReader code with
  | none => [code]
  | some p =>
    match p (zeroBytes 32) with
    | none => code :: zeroBytes 32
    | some (_, rest) => code :: zeroBytes (32 - rest.length)

/-- The symbol a wire word is, zeros after its table bits. -/
def lineZeros (w : Bytes) : Bytes := (w ++ zeroBytes 257).take (lineLength (w ++ zeroBytes 257))

/-- Where a table word is read from. A word of more than one byte is a W2 frame. One byte alone does not say its port: the
control bytes are the wire's, a code of 30_encoding.md R92 the host's, a kind of R93 the timers', any other byte the
wire's (log entry 6). -/
def tableSource (nbits w : Nat) : Option Source :=
  match tableBytes (nbits / 8) w with
  | [] => none
  | [b] =>
    if b = ackByte ∨ b = nakByte ∨ b = canByte then some (.line [b])
    else if (commandReader b).isSome then some (.port (.cmd (commandZeros b)))
    else if b = 0x04 then some (.port (.tmr [b]))
    else some (.line (lineZeros [b]))
  | b :: rest => some (.line (lineZeros (b :: rest)))

/-- The instruction the decoder reads from a table word. -/
def decodeTableWord (nbits w : Nat) : Option Instr :=
  match tableSource nbits w with
  | none => none
  | some src => (decode src).toOption

end Sys2Proof
end

