-- ==== Sys2Proof/Machine/State.lean ====
section
/-! DEFINITION. The state of the block: every register of spec/10_state.md R57 with its reset value, the ports of
spec/00_scope.md R10, the host predicates of spec/45_host_boundary.md R304, and what the environment does next. -/

namespace Sys2Proof.Machine

/-- `ST` (10_state.md R37). -/
inductive TmState
  | idle | handshake | execute | waitForUpdate | retryWait
deriving DecidableEq, Repr, Inhabited

/-- `PH` (10_state.md R38). -/
inductive Phase
  | none | waitAck | waitReply
deriving DecidableEq, Repr, Inhabited

/-- `TMR` (10_state.md R39). -/
inductive TmTimer
  | off | ack | resp | upd | retry
deriving DecidableEq, Repr, Inhabited

/-- `LIFE` (10_state.md R41). -/
inductive Life
  | ready | destroyed
deriving DecidableEq, Repr, Inhabited

/-- The eight observables of `SYS.STATUS` (60_exceptions.md R364), in its order. -/
structure Status where
  st : TmState
  ph : Phase
  keyvalid : Bool
  life : Life
  queued : Nat
  nonces : Nat
  received : Nat
  toSend : Nat
deriving DecidableEq, Repr, Inhabited

/-- What a command returns on the `cmd` port in the step that runs it (00_scope.md R10, R15; the results of
30_encoding.md R92). -/
inductive Reply
  /-- A command with no result. -/
  | done
  /-- `SYS.STATUS`. -/
  | status (v : Status)
  /-- Ciphertext, plaintext, MAC, nonce or serialized frame. -/
  | bytes (v : Bytes)
  /-- `SE.VERIFY`. -/
  | truth (v : Bool)
  /-- `SE.SEAL`: sender nonce, ciphertext, nonce id, MAC. -/
  | sealedParts (senderNonce ciphertext : Bytes) (nonceId : Byte) (mac : Bytes)
  /-- `NT.FINDFREE`. -/
  | found (v : Option (Byte × Bytes))
  /-- `TM.REJECT`. -/
  | count (n : Nat)
  /-- `raise E` (60_exceptions.md R340). -/
  | error (e : ErrCode)
deriving DecidableEq, Repr, Inhabited

/-- An event record (60_exceptions.md R350). -/
inductive Event
  /-- `EVT_LOG_DROP`. -/
  | logDrop (type funcId : Byte) (payload : Bytes)
  /-- `EVT_UNSOLICITED`. -/
  | unsolicited (m : Message)
  /-- `EVT_TXN_DONE`. -/
  | txnDone (id : TxnId) (outcome : TxnOutcome)
deriving DecidableEq, Repr, Inhabited

/-- The numeric kind of an event record (60_exceptions.md R350). -/
def Event.code (e : Event) : Byte :=
  match e with
  | .logDrop _ _ _ => 0x01
  | .unsolicited _ => 0x02
  | .txnDone _ _ => 0x03

/-- The registers of FC (10_state.md R21 to R23). -/
structure FcRegs where
  rxbuf : Bytes
  /-- `RXTMR`: true is armed. -/
  rxtmr : Bool
  txq : Bytes
deriving DecidableEq, Repr, Inhabited

/-- The registers of SE (10_state.md R30 to R33). -/
structure SeRegs where
  ownid : Option NodeId
  netkey : Bytes
  authkey : Bytes
  enckey : Bytes
  keyvalid : Bool
  nt : NonceTable
deriving DecidableEq, Repr, Inhabited

/-- The registers of TM (10_state.md R37 to R41). -/
structure TmRegs where
  st : TmState
  ph : Phase
  cur : Option Txn
  hsf : Bool
  txframe : Option Bytes
  hsreply : Option Message
  cause : Option ErrCode
  tmr : TmTimer
  /-- `Q`: a set, kept with strictly rising `created` (log entry 18). -/
  q : List Txn
  life : Life
deriving DecidableEq, Repr, Inhabited

/-- The model's record of the ports (log entries 4, 10 and 13): what went out on `tx`, `evt` and `cmd`, oldest first, and
how many free values of Config were used. -/
structure Ports where
  wire : Bytes
  events : List Event
  replies : List Reply
  drawn : Nat
  choices : Nat
deriving DecidableEq, Repr, Inhabited

/-- The state of the machine. -/
structure State where
  fc : FcRegs
  se : SeRegs
  tm : TmRegs
  /-- `SEQ` (10_state.md R42). -/
  seq : Nat
  ports : Ports
  /-- The host predicates as they read now (45_host_boundary.md R304). -/
  pins : HostPins
  /-- What the environment does next, oldest first (log entry 1). -/
  sched : List Input
deriving DecidableEq, Repr, Inhabited

/-- Why the machine is stuck: the step proposed is NOT ENABLED in this state, so it "cannot be taken" (00_scope.md R15,
93_implementation_defined.md U18). Each is safe: nothing is claimed of a run that the block cannot make (log entry 2). -/
inductive Fault
  /-- Raised by `TX.EMIT` with `TXQ` empty (41_frame_encode.md R144). Safe. -/
  | txqEmpty
  /-- Raised by `TM.DISPATCH` while TM is busy or destroyed or has no eligible transaction (44_transaction_fsm.md R251).
  Safe. -/
  | dispatchNotEnabled
  /-- Raised by `TM.TIMEOUT(k)` while `TMR` is not `k` (44_transaction_fsm.md R246). Safe. -/
  | timerNotArmed (k : TmTimer)
  /-- Raised by `RX.TIMEOUT` while `RXTMR` is off (40_frame_decode.md R124). Safe. -/
  | rxTimerNotArmed
  /-- Raised by `NT.EXPIRE` for a key that is not stored (43_nonce_and_security_ops.md R206). Safe. -/
  | nonceNotStored (k : NonceKey)
deriving DecidableEq, Repr, Inhabited

/-- Why a step is refused. -/
inductive Refusal
  /-- Raised by an arm of `exec` for an instruction that has no meaning yet. Safe. -/
  | notModelled (mnemonic : String)
  /-- Raised by `step` for bytes on the `tmr` port that are no timer event of 30_encoding.md R93, which no timer can send.
  Safe (log entry 2). -/
  | noSuchTimer (w : Bytes)
deriving DecidableEq, Repr, Inhabited

/-- What a step answers. -/
abbrev Result := Host.Outcome State Fault Refusal

/-- The reset value of a key register: the spec says it "holds no value" and is not read before it is written
(10_state.md R31). DESIGN CHOICE, unsafe (log entry 12). -/
def resetKey : Bytes := List.replicate 16 0

/-- FC after reset (10_state.md R57). -/
def resetFc : FcRegs := { rxbuf := [], rxtmr := false, txq := [] }

/-- SE after reset (10_state.md R57). -/
def resetSe : SeRegs :=
  { ownid := none, netkey := resetKey, authkey := resetKey, enckey := resetKey, keyvalid := false, nt := [] }

/-- TM after reset (10_state.md R57). -/
def resetTm : TmRegs :=
  { st := .idle, ph := .none, cur := none, hsf := false, txframe := none, hsreply := none, cause := none, tmr := .off,
    q := [], life := .ready }

/-- The machine right after power-on reset (10_state.md R57, 70_reset_and_hazards.md R380): nothing has gone out on any
port, no node is listening, asleep or dead, and the environment does nothing. -/
def State.reset : State :=
  { fc := resetFc, se := resetSe, tm := resetTm, seq := 0,
    ports := { wire := [], events := [], replies := [], drawn := 0, choices := 0 },
    pins := { listening := [], asleep := [], dead := [] }, sched := [] }

end Sys2Proof.Machine
end

