-- ==== Sys2Proof/Machine/Ops.lean ====
section
/-! DEFINITION. The named operations over the registers, the stores and the ports: the pseudocode primitives of
spec/00_scope.md R14, `raise` (the block's only exception, spec/60_exceptions.md R340, R352, R355), the nonce table
(spec/10_state.md R33), the queue as a set (spec/10_state.md R40) and the random port (spec/00_scope.md R10). There is no
return from an exception: nothing was entered (spec/60_exceptions.md R356). -/

namespace Sys2Proof.Machine

/-! ### FC -/

/-- `consume(n)` (00_scope.md R14). -/
def consume (n : Nat) (s : State) : State := { s with fc.rxbuf := s.fc.rxbuf.drop n }

/-- `tx(u)`: one whole unit (00_scope.md R14, 41_frame_encode.md R143). -/
def tx (u : Bytes) (s : State) : State := { s with fc.txq := s.fc.txq ++ u }

/-- `RXBUF <- RXBUF ++ [b]` (40_frame_decode.md R111). -/
def receive (b : Byte) (s : State) : State := { s with fc.rxbuf := s.fc.rxbuf ++ [b] }

/-! ### The ports -/

/-- `emit e` (00_scope.md R14). -/
def emit (e : Event) (s : State) : State := { s with ports.events := s.ports.events ++ [e] }

/-- The command returns `r` on the `cmd` port (00_scope.md R10). -/
def answer (r : Reply) (s : State) : State := { s with ports.replies := s.ports.replies ++ [r] }

/-- `raise e`: the command ends, its error code goes to the caller in the same step; no state is saved, no mode changes,
no control is transferred (00_scope.md R14, 60_exceptions.md R340, R355). The writes made before stay (R352). -/
def raise (e : ErrCode) (s : State) : State := answer (.error e) s

/-- `draw(n)`: the next n bytes of the `rnd` port (00_scope.md R10, R14). Each is a free value (log entry 10). -/
def drawn (c : Config) (n : Nat) (s : State) : Bytes := (List.range n).map fun i => c.rnd (s.ports.drawn + i)

/-- The `rnd` port after n bytes were read: "Reading the `rnd` port consumes the drawn bytes" (20_memory.md R66). -/
def spend (n : Nat) (s : State) : State := { s with ports.drawn := s.ports.drawn + n }

/-- The free orders after one was used (log entry 13). -/
def choose (s : State) : State := { s with ports.choices := s.ports.choices + 1 }

/-! ### The creation counter -/

/-- `SEQ <- SEQ + 1` (10_state.md R42). -/
def stamp (s : State) : State := { s with seq := s.seq + 1 }

/-! ### The nonce table -/

/-- The place of a key in the table's order (log entry 18). -/
def keyRank (k : NonceKey) : Nat := k.issuer.toNat * 256 + k.id.toNat

/-- `NT[k]`, `none` where k is not in dom(NT) (10_state.md R33). -/
def ntFind (k : NonceKey) : NonceTable → Option NonceEntry
  | [] => none
  | (k', e) :: rest => if k' = k then some e else ntFind k rest

/-- `NT[k] <- e` (43_nonce_and_security_ops.md R201, R202). -/
def ntPut (k : NonceKey) (e : NonceEntry) : NonceTable → NonceTable
  | [] => [(k, e)]
  | (k', e') :: rest =>
    if keyRank k < keyRank k' then (k, e) :: (k', e') :: rest
    else if k' = k then (k, e) :: rest
    else (k', e') :: ntPut k e rest

/-- `delete NT[k]` (43_nonce_and_security_ops.md R204). -/
def ntDelete (k : NonceKey) (t : NonceTable) : NonceTable := t.filter fun x => x.1 ≠ k

/-- The entry with the smallest `created` (43_nonce_and_security_ops.md R203, R210). -/
def ntOldest : NonceTable → Option (NonceKey × NonceEntry)
  | [] => none
  | x :: rest =>
    match ntOldest rest with
    | none => some x
    | some y => if y.2.created < x.2.created then some y else some x

/-- The entries of one issuer. -/
def ntOf (issuer : NodeId) (t : NonceTable) : NonceTable := t.filter fun x => x.1.issuer = issuer

/-- The entries that one node issued for another (10_state.md R33; 92_eei_decisions.md D42). -/
def ntFor (issuer receiver : NodeId) (t : NonceTable) : NonceTable := (ntOf issuer t).filter fun x => x.2.receiver = receiver

/-- The free entries of one issuer: the set `F` of 43_nonce_and_security_ops.md R203. -/
def ntFreeOf (issuer : NodeId) (t : NonceTable) : NonceTable := (ntOf issuer t).filter fun x => x.2.free

/-- The ids stored for one issuer: the set `used` of 43_nonce_and_security_ops.md R201. -/
def usedIds (issuer : NodeId) (t : NonceTable) : List Byte := (ntOf issuer t).map fun x => x.1.id

/-- `HasNonce` (43_nonce_and_security_ops.md R208). -/
def hasNonce (issuer : NodeId) (t : NonceTable) : Bool := !(ntFreeOf issuer t).isEmpty

/-- Write the nonce table. -/
def setNt (t : NonceTable) (s : State) : State := { s with se.nt := t }

/-- Store a nonce: the entry's key is its issuer and first byte, its stamp `SEQ`, which then counts on
(43_nonce_and_security_ops.md R201, R202; 44_transaction_fsm.md R262). -/
def storeNonce (issuer : NodeId) (nonce : Bytes) (receiver : NodeId) (free : Bool) (s : State) : State :=
  stamp (setNt (ntPut { issuer, id := nonce.getD 0 0 } { nonce, receiver, free, created := s.seq } s.se.nt) s)

/-- Delete an entry. -/
def dropNonce (k : NonceKey) (s : State) : State := setNt (ntDelete k s.se.nt) s

/-- The first byte of a constrained draw: the drawn byte if it is not in use, else the next byte upwards, modulo 256, that
is not ("an implementation may redraw until the constraint holds", 43_nonce_and_security_ops.md R201; log entry 10). -/
def freshId (used : List Byte) (b : Byte) : Byte :=
  (((List.range 256).map fun i => b + toByte i).find? fun x => !used.contains x).getD b

/-! ### The timers -/

/-- `arm(k)` (00_scope.md R14). -/
def arm (k : TmTimer) (s : State) : State := { s with tm.tmr := k }

/-- `disarm` (00_scope.md R14). -/
def disarm (s : State) : State := { s with tm.tmr := .off }

/-! ### Transactions -/

/-- `settle(t, o)`: the record with its outcome slot written (44_transaction_fsm.md R270). Every rule that settles a
transaction removes it from TM in the same step. -/
def settle (t : Txn) (o : TxnOutcome) : Txn := { t with outcome := o }

/-- `EVT_TXN_DONE` of a settled transaction (60_exceptions.md R350). -/
def doneEvent (t : Txn) : Event := .txnDone t.id t.outcome

/-- Settle a transaction and report it (44_transaction_fsm.md R268, R272, R274). -/
def report (o : TxnOutcome) (t : Txn) (s : State) : State := emit (doneEvent (settle t o)) s

/-- Settle and report each transaction of a list, in its order. -/
def reportAll (o : TxnOutcome) (ts : List Txn) (s : State) : State := ts.foldl (fun s t => report o t s) s

/-- `Q + {t}`: the set with t, in the order of `created` (10_state.md R40; log entry 18). -/
def qInsert (t : Txn) : List Txn → List Txn
  | [] => [t]
  | x :: rest => if t.created < x.created then t :: x :: rest else x :: qInsert t rest

/-- Write the queue. -/
def setQ (q : List Txn) (s : State) : State := { s with tm.q := q }

/-- The six writes that leave TM idle with nothing latched: the last two lines of `Finalize`
(44_transaction_fsm.md R268, R274). -/
def toIdle (s : State) : State :=
  { s with tm.tmr := .off, tm.st := .idle, tm.ph := .none, tm.cur := none, tm.hsf := false, tm.txframe := none,
           tm.hsreply := none, tm.cause := none }

/-! ### What a step adds -/

/-- The environment's next item is taken. -/
def setSched (l : List Input) (s : State) : State := { s with sched := l }

/-- The host predicates now read so (45_host_boundary.md R304). -/
def setPins (p : HostPins) (s : State) : State := { s with pins := p }

/-- The outcome of a meaning, its next state changed by `f`. -/
def mapNext (f : State → State) (r : Result) : Result :=
  match r with
  | .next s => .next (f s)
  | .fault e => .fault e
  | .refused e => .refused e

end Sys2Proof.Machine
end

