-- ==== Sys2Proof/Machine/Flags.lean ====
section
/-! DEFINITION. The one-bit registers and how each rule computes them (spec/10_state.md R52): `RXTMR`, `KEYVALID`, `HSF`,
the `free` flag of a nonce entry, `LIFE`. There are no arithmetic condition codes. -/

namespace Sys2Proof.Machine

/-- `RXTMR <- (if |RXBUF| > 0 then armed else off)` (40_frame_decode.md R111). -/
def lineTimer (s : State) : State := { s with fc.rxtmr := !s.fc.rxbuf.isEmpty }

/-- `HSF <- (1 if ST = handshake or cause = ERR_NO_NONCE else 0)` (44_transaction_fsm.md R266). -/
def hsfOf (st : TmState) (cause : ErrCode) : Bool := st == .handshake || cause == .noNonce

/-- `NT[k].free <- v` (43_nonce_and_security_ops.md R203, R205). -/
def ntSetFree (k : NonceKey) (v : Bool) (t : NonceTable) : NonceTable :=
  t.map fun x => if x.1 = k then (x.1, { x.2 with free := v }) else x

/-- `LIFE <- destroyed` (70_reset_and_hazards.md R382). -/
def destroy (s : State) : State := { s with tm.life := .destroyed }

/-- `KEYVALID <- 1` with the three key registers (42_cipher_core.md R179). -/
def loadKeys (netkey authkey enckey : Bytes) (s : State) : State :=
  { s with se.netkey := netkey, se.authkey := authkey, se.enckey := enckey, se.keyvalid := true }

end Sys2Proof.Machine
end

