-- ==== Sys2Proof/Machine/Operands.lean ====
section
/-! DEFINITION. The operand forms that need a meaning of their own: predicates by number, the transaction record of
`TM.ADD`, the optional nonce id of `SE.SEAL`, the active message of TM (spec/00_scope.md R11, spec/44_transaction_fsm.md
R240, R248, spec/43_nonce_and_security_ops.md R210). -/

namespace Sys2Proof.Machine

/-- The predicate operand of `TM.REJECT` (44_transaction_fsm.md R272). -/
def predHolds (c : Config) (p : TxnPred) (t : Txn) : Bool :=
  match p with
  | .all => true
  | .nodeIs n => t.node == some n
  | .named k => c.txnPred k t

/-- `maxAttempts` of the operand of `TM.ADD`, 3 when the host gives none (10_state.md R36). -/
def specAttempts (t : TxnSpec) : Nat := t.maxAttempts.getD Config.maxAttemptsDefault

/-- `t0 with created = SEQ, attempts = 0, outcome = Pending` (44_transaction_fsm.md R248). -/
def txnOfSpec (t : TxnSpec) (created : Nat) : Txn :=
  { id := t.id, msg := t.msg, hsMsg := t.hsMsg, node := t.node, priority := t.priority, created,
    attempts := 0, maxAttempts := specAttempts t, expectsUpdate := t.expectsUpdate, secure := t.secure,
    secCmd := t.secCmd, secPlain := t.secPlain, isPing := t.isPing, outcome := .pending,
    partialReports := t.partialReports }

/-- The key that `SE.SEAL` spends, run by node `own`: the named entry; without a name "the oldest entry issued by the receiver
for this node, free or reserved" (43_nonce_and_security_ops.md R210, 92_eei_decisions.md D42; log entry 19). -/
def sealKey (own receiver : NodeId) (nonceId : Option Byte) (t : NonceTable) : Option (NonceKey × NonceEntry) :=
  match nonceId with
  | some i => (ntFind { issuer := receiver, id := i } t).map fun e => ({ issuer := receiver, id := i }, e)
  | none => ntOldest (ntFor receiver own t)

/-- `Active`: the message whose link acknowledgement or reply TM awaits (44_transaction_fsm.md R240). -/
def active (t : TmRegs) : Option Message :=
  match t.st, t.cur with
  | .handshake, some x => x.hsMsg
  | .execute, some x => some x.msg
  | _, _ => none

/-- The active message's predicate, if it has one. -/
def activeExpect (t : TmRegs) : Option PredId := (active t).bind fun m => m.expect

/-- `NeedHS(t, NT)` by its default definition (44_transaction_fsm.md R250). -/
def needHSDefault (t : Txn) (nt : NonceTable) : Bool :=
  t.secure && t.hsMsg.isSome &&
    match t.node with
    | none => false
    | some n => !hasNonce n nt

/-- `NeedHS(t, NT)`: the configuration's function, or the default (44_transaction_fsm.md R250). A handshake needs a
handshake message (R252), whatever the configuration says (log entry 9). -/
def needHS (c : Config) (t : Txn) (nt : NonceTable) : Bool :=
  match c.needHS with
  | none => needHSDefault t nt
  | some f => f t nt && t.hsMsg.isSome

/-- `Listening(n)` as it reads now (45_host_boundary.md R304). -/
def listening (p : HostPins) (n : NodeId) : Bool := p.listening.contains n

/-- `Asleep(n)` as it reads now (45_host_boundary.md R304). -/
def asleep (p : HostPins) (n : NodeId) : Bool := p.asleep.contains n

/-- `Dead(n)` as it reads now; no rule of the block reads it (45_host_boundary.md R304). -/
def dead (p : HostPins) (n : NodeId) : Bool := p.dead.contains n

end Sys2Proof.Machine
end

