-- ==== Sys2Proof/Machine/Queue.lean ====
section
/-! DEFINITION. The queue order and eligibility, evaluated by TM (spec/45_host_boundary.md R301 to R303). -/

namespace Sys2Proof.Machine

/-- `rank(t)` (45_host_boundary.md R302). -/
def rank (p : HostPins) (t : Txn) : Nat :=
  if t.priority = Config.prioNodeQuery then
    match t.node with
    | none => 1
    | some n => if listening p n then 0 else 1
  else 1

/-- `Compare(a, b)`: `a` sorts before `b` when `key(a) < key(b)`, lexicographically over (priority, rank, created)
(45_host_boundary.md R302). -/
def sortsBefore (p : HostPins) (a b : Txn) : Bool :=
  decide (a.priority < b.priority) ||
    (a.priority == b.priority &&
      (decide (rank p a < rank p b) || (rank p a == rank p b && decide (a.created < b.created))))

/-- Put `x` before the first element it sorts before. -/
def insertBy (lt : Txn → Txn → Bool) (x : Txn) : List Txn → List Txn
  | [] => [x]
  | y :: rest => if lt x y then x :: y :: rest else y :: insertBy lt x rest

/-- A list of transactions in order. -/
def sortBy (lt : Txn → Txn → Bool) : List Txn → List Txn
  | [] => []
  | x :: rest => insertBy lt x (sortBy lt rest)

/-- Transactions in `Compare` order. -/
def inOrder (p : HostPins) (ts : List Txn) : List Txn := sortBy (sortsBefore p) ts

/-- A transaction that TM may take: its node, if it has one, is not known to be asleep (45_host_boundary.md R303). -/
def isEligible (p : HostPins) (t : Txn) : Bool :=
  match t.node with
  | none => true
  | some n => !asleep p n

/-- `Eligible(Q)` (45_host_boundary.md R303). -/
def eligible (p : HostPins) (q : List Txn) : List Txn := q.filter fun t => isEligible p t

/-- The least element of `Eligible(Q)` under `Compare` (44_transaction_fsm.md R251). -/
def nextTxn (s : State) : Option Txn := (inOrder s.pins (eligible s.pins s.tm.q)).head?

/-- A free order over dropped pings: by a rank that is a free value, then by creation (log entry 13). -/
def inFreeOrder (c : Config) (k : Nat) (ts : List Txn) : List Txn :=
  sortBy (fun a b => decide (c.dropOrder k a < c.dropOrder k b) ||
    (c.dropOrder k a == c.dropOrder k b && decide (a.created < b.created))) ts

end Sys2Proof.Machine
end

