-- ==== Sys2Proof/Machine/Cipher.lean ====
section
/-! DEFINITION. OFB mode, CBC-MAC, the authentication data and the key derivation (spec/42_cipher_core.md R170 to R178). -/

namespace Sys2Proof.Machine

/-- The first `k` keystream blocks after `o`, joined: `o_j = AesEnc(key, o_(j-1))` (42_cipher_core.md R170). -/
def ofbStream (key o : Bytes) : Nat → Bytes
  | 0 => []
  | k + 1 => let o' := aesEnc key o
             o' ++ ofbStream key o' k

/-- `Ofb(key, iv, data)` (42_cipher_core.md R170). -/
def ofb (key iv data : Bytes) : Bytes := xorBytes data (ofbStream key iv ((data.length + 15) / 16))

/-- `Iv`: sender nonce first (42_cipher_core.md R171, 20_memory.md R62). -/
def iv (senderNonce receiverNonce : Bytes) : Bytes := senderNonce ++ receiverNonce

/-- `ZeroPad` (42_cipher_core.md R174). -/
def zeroPad (d : Bytes) : Bytes := d ++ List.replicate ((16 - d.length % 16) % 16) 0

/-- `x_k` of CBC-MAC from `x_0 = x` over the first `k` blocks of `p` (42_cipher_core.md R175). -/
def cbcChain (key x p : Bytes) : Nat → Bytes
  | 0 => x
  | k + 1 => cbcChain key (aesEnc key (xorBytes x (p.take 16))) (p.drop 16) k

/-- `CbcMacFull(key, d)` (42_cipher_core.md R175). -/
def cbcMacFull (key d : Bytes) : Bytes :=
  cbcChain key (List.replicate 16 0) (zeroPad d) ((zeroPad d).length / 16)

/-- `Mac`: the first 8 bytes of the last chaining value (42_cipher_core.md R176). -/
def macOf (authKey authData : Bytes) : Bytes := (cbcMacFull authKey authData).take Config.macLen

/-- `AuthData` (42_cipher_core.md R177). -/
def authData (sn rn : Bytes) (commandId : Byte) (sender receiver : NodeId) (ct : Bytes) : Bytes :=
  sn ++ rn ++ [commandId, sender, receiver, toByte ct.length] ++ ct

/-- `KD_AUTH` (00_scope.md R8). -/
def kdAuth : Bytes := List.replicate 16 0x55

/-- `KD_ENC` (00_scope.md R8). -/
def kdEnc : Bytes := List.replicate 16 0xAA

/-- `AuthKeyOf` (42_cipher_core.md R178). -/
def authKeyOf (k : Bytes) : Bytes := aesEnc k kdAuth

/-- `EncKeyOf` (42_cipher_core.md R178). -/
def encKeyOf (k : Bytes) : Bytes := aesEnc k kdEnc

end Sys2Proof.Machine
end

