-- ==== Sys2Proof/Machine/Sealing.lean ====
section
/-! DEFINITION. Sealing a message: what `SE.SEAL` does as a command and inside `Materialize`
(spec/43_nonce_and_security_ops.md R210, spec/44_transaction_fsm.md R258). -/

namespace Sys2Proof.Machine

/-- The four parts of a sealed message (43_nonce_and_security_ops.md R210). -/
structure Sealed where
  senderNonce : Bytes
  ciphertext : Bytes
  nonceId : Byte
  mac : Bytes
deriving DecidableEq, Repr, Inhabited

/-- The checks of `SE.SEAL` in their order, up to the key it spends (43_nonce_and_security_ops.md R210). -/
def sealChecks (receiver : NodeId) (plaintext : Bytes) (nonceId : Option Byte) (s : State) :
    Except ErrCode (NodeId × NonceKey × NonceEntry) :=
  if s.se.keyvalid = false then .error .noKey
  else match s.se.ownid with
    | none => .error .precondition
    | some own =>
      if plaintext.length > 255 then .error .precondition
      else match sealKey own receiver nonceId s.se.nt with
        | none => .error .noNonce
        | some (k, e) => .ok (own, k, e)

/-- The four parts, given the sender nonce drawn and the receiver nonce spent (43_nonce_and_security_ops.md R210). -/
def sealedOf (se : SeRegs) (own receiver : NodeId) (commandId id : Byte) (sn rn plaintext : Bytes) : Sealed :=
  let ct := ofb se.enckey (iv sn rn) plaintext
  { senderNonce := sn, ciphertext := ct, nonceId := id,
    mac := macOf se.authkey (authData sn rn commandId own receiver ct) }

/-- `SE.SEAL`: the state after it, and its error or its four parts. The nonce is deleted before the sender nonce is drawn;
nothing can fail after that (43_nonce_and_security_ops.md R210, 60_exceptions.md R352). -/
def sealMessage (c : Config) (receiver : NodeId) (commandId : Byte) (plaintext : Bytes) (nonceId : Option Byte)
    (s : State) : State × Except ErrCode Sealed :=
  match sealChecks receiver plaintext nonceId s with
  | .error e => (s, .error e)
  | .ok (own, k, e) =>
    (spend Config.nonceLen (dropNonce k s),
     .ok (sealedOf s.se own receiver commandId k.id (drawn c Config.nonceLen s) e.nonce plaintext))

end Sys2Proof.Machine
end

