-- ==== Sys2Proof/Machine/Transaction.lean ====
section
/-! DEFINITION. The helper procedures of the transaction machine and the four events FC hands it
(spec/44_transaction_fsm.md R244 to R270). Where a procedure reads a part of `CUR` that the invariants of R242 say is there
and it is not, the procedure leaves the state as it is (log entry 14). -/

namespace Sys2Proof.Machine

/-- `StartAttempt(f)` (44_transaction_fsm.md R244). -/
def startAttempt (f : Bytes) (s : State) : State :=
  { s with fc.txq := s.fc.txq ++ f, tm.ph := .waitAck, tm.tmr := .ack }

/-- `Finalize(o)` (44_transaction_fsm.md R268). -/
def finalize (o : TxnOutcome) (s : State) : State :=
  match s.tm.cur with
  | none => s
  | some t => toIdle (report o t s)

/-- `CUR.attempts + 1`. -/
def oneMore (t : Txn) : Txn := { t with attempts := t.attempts + 1 }

/-- The registers `Fail` writes before it chooses (44_transaction_fsm.md R266). -/
def recordFailure (cause : ErrCode) (t : Txn) (s : State) : State :=
  { s with tm.tmr := .off, tm.ph := .none, tm.hsf := hsfOf s.tm.st cause, tm.cur := some (oneMore t),
           tm.cause := some cause }

/-- `ST <- retryWait; arm(retry)` (44_transaction_fsm.md R266). -/
def enterRetryWait (s : State) : State := { s with tm.st := .retryWait, tm.tmr := .retry }

/-- `Fail(cause)`, the retry policy (44_transaction_fsm.md R266). -/
def fail (cause : ErrCode) (s : State) : State :=
  match s.tm.cur with
  | none => s
  | some t =>
    if t.attempts + 1 < t.maxAttempts then enterRetryWait (recordFailure cause t s)
    else finalize (.failure .maxAttempts (some cause)) (recordFailure cause t s)

/-- `ST <- st`. -/
def setSt (st : TmState) (s : State) : State := { s with tm.st := st }

/-- `TXFRAME <- some f` (44_transaction_fsm.md R253). -/
def latchFrame (f : Bytes) (s : State) : State := { s with tm.txframe := some f }

/-- `EnterHandshake` (44_transaction_fsm.md R252). `TM.ADD` has checked the payload's length; a message too long for a
frame is settled as `EnterExecute` settles a build error (log entry 14). -/
def enterHandshake (s : State) : State :=
  match s.tm.cur with
  | none => s
  | some t =>
    match t.hsMsg with
    | none => s
    | some h =>
      match serialize h.type h.funcId h.payload with
      | .ok f => startAttempt f (setSt .handshake s)
      | .error e => finalize (.failure e none) (setSt .handshake s)

/-- `Materialize(t)`: the state after it, and the payload the transaction's frame carries or the error
(44_transaction_fsm.md R258). -/
def materialize (c : Config) (t : Txn) (s : State) : State × Except ErrCode Bytes :=
  if t.secure = false then (s, .ok t.msg.payload)
  else match t.node with
    | none => (s, .error .precondition)
    | some n =>
      match sealMessage c n t.secCmd t.secPlain none s with
      | (s', .error e) => (s', .error e)
      | (s', .ok p) =>
        let payload := c.secLayout t p.senderNonce p.ciphertext p.nonceId p.mac
        if payload.length > Config.maxPayload then (s', .error .precondition) else (s', .ok payload)

/-- What `EnterExecute` does with an error of `Materialize` (44_transaction_fsm.md R253). -/
def buildError (e : ErrCode) (t : Txn) (s : State) : State :=
  if e = .noNonce ∧ t.hsMsg.isSome then fail .noNonce s else finalize (.failure e none) s

/-- The frame of the transaction's own Message with the payload `Materialize` gave it, latched and sent
(44_transaction_fsm.md R253). -/
def sendBuilt (t : Txn) (payload : Bytes) (s : State) : State :=
  match serialize t.msg.type t.msg.funcId payload with
  | .ok f => startAttempt f (latchFrame f s)
  | .error e => buildError e t s

/-- `EnterExecute` (44_transaction_fsm.md R253). -/
def enterExecute (c : Config) (s : State) : State :=
  match s.tm.cur with
  | none => s
  | some t =>
    match s.tm.txframe with
    | some f => startAttempt f (setSt .execute s)
    | none =>
      match materialize c t (setSt .execute s) with
      | (s', .ok payload) => sendBuilt t payload s'
      | (s', .error e) => buildError e t s'

/-- `HSREPLY <- r` (44_transaction_fsm.md R262). -/
def latchReply (r : Option Message) (s : State) : State := { s with tm.hsreply := r }

/-- The nonce of a handshake reply, stored reserved for the transaction's node, where there is a nonce, a node and an own
id (44_transaction_fsm.md R262). -/
def storeReplyNonce (c : Config) (r : Option Message) (s : State) : State :=
  match r.bind c.nonceOf, s.tm.cur.bind (fun t => t.node), s.se.ownid with
  | some n, some i, some o => storeNonce i n.toList o false s
  | _, _, _ => s

/-- Handshake success: `EnterExecute` follows in the same step, with no `TM.TIMEOUT(retry)` between the handshake's attempt and
the first of `execute` (44_transaction_fsm.md R262, R278). Law R279 (d), read word for word, would ask for one there; the
model takes it as a law about retries. DEDUCED, unsafe (log entry 20). -/
def handshakeSuccess (c : Config) (r : Option Message) (s : State) : State :=
  enterExecute c (storeReplyNonce c r (latchReply r s))

/-- `ST <- waitForUpdate; arm(upd)` (44_transaction_fsm.md R263). -/
def enterWaitForUpdate (s : State) : State := { s with tm.st := .waitForUpdate, tm.tmr := .upd }

/-- Execute success (44_transaction_fsm.md R263). -/
def executeSuccess (r : Option Message) (s : State) : State :=
  match s.tm.cur with
  | none => s
  | some t => if t.expectsUpdate then enterWaitForUpdate s else finalize (.success r) s

/-- `disarm; PH <- none` (44_transaction_fsm.md R261). -/
def endPrimitive (s : State) : State := { s with tm.tmr := .off, tm.ph := .none }

/-- `PrimitiveSuccess(r)` (44_transaction_fsm.md R261). -/
def primitiveSuccess (c : Config) (r : Option Message) (s : State) : State :=
  match s.tm.st with
  | .handshake => handshakeSuccess c r (endPrimitive s)
  | .execute => executeSuccess r (endPrimitive s)
  | .idle => s
  | .waitForUpdate => s
  | .retryWait => s

/-- `PH <- waitReply; arm(resp)` (44_transaction_fsm.md R254). -/
def awaitReply (s : State) : State := { s with tm.ph := .waitReply, tm.tmr := .resp }

/-- `LINK_ACK` (44_transaction_fsm.md R254). -/
def linkAck (c : Config) (s : State) : State :=
  if s.tm.ph = .waitAck then
    match activeExpect s.tm with
    | none => primitiveSuccess c none s
    | some _ => awaitReply s
  else s

/-- `LINK_NAK` (44_transaction_fsm.md R255). -/
def linkNak (s : State) : State := if s.tm.ph = .waitAck then fail .linkNak s else s

/-- `LINK_CAN` (44_transaction_fsm.md R256). -/
def linkCan (s : State) : State := if s.tm.ph = .waitAck then fail .linkCan s else s

/-- The verdict of the active message's predicate on `m`; a message without one takes no reply (44_transaction_fsm.md
R260). -/
def verdictOf (c : Config) (t : TmRegs) (m : Message) : Verdict :=
  match activeExpect t with
  | none => .unrelated
  | some p => c.expect p m

/-- `MSG(m)` while TM waits for a reply (44_transaction_fsm.md R260). -/
def msgInReply (c : Config) (m : Message) (s : State) : State :=
  match verdictOf c s.tm m with
  | .final => primitiveSuccess c (some m) s
  | .confirmation => s
  | .fatal => fail .fatalResponse s
  | .unrelated => emit (.unsolicited m) s

/-- `MSG(m)` while TM waits for an update (44_transaction_fsm.md R260, R264). -/
def msgInUpdate (c : Config) (m : Message) (s : State) : State :=
  match s.tm.cur with
  | none => emit (.unsolicited m) s
  | some t => if c.isUpdate t m then finalize (.success (some m)) s else emit (.unsolicited m) s

/-- `MSG(m)` (44_transaction_fsm.md R260). -/
def msg (c : Config) (m : Message) (s : State) : State :=
  match s.tm.st with
  | .handshake => if s.tm.ph = .waitReply then msgInReply c m s else emit (.unsolicited m) s
  | .execute => if s.tm.ph = .waitReply then msgInReply c m s else emit (.unsolicited m) s
  | .waitForUpdate => msgInUpdate c m s
  | .idle => emit (.unsolicited m) s
  | .retryWait => emit (.unsolicited m) s

end Sys2Proof.Machine
end

