-- ==== Sys2Proof/Machine/Frames.lean ====
section
/-! DEFINITION. The wire symbols and the encoder row: what FC does with each decoded symbol
(spec/40_frame_decode.md R112 to R121) and `Serialize` (spec/41_frame_encode.md R141). -/

namespace Sys2Proof.Machine

/-- `consume(n); tx([0x15])`: a transport-format error (40_frame_decode.md R118, R119; 60_exceptions.md R341). -/
def rejectFrame (n : Nat) (s : State) : State := tx [nakByte] (consume n s)

/-- `consume(n); tx([0x06])`: the part common to every good Data frame (40_frame_decode.md R115). -/
def acceptFrame (n : Nat) (s : State) : State := tx [ackByte] (consume n s)

/-- The Message of a received frame: `expect = none` (10_state.md R24). -/
def received (type funcId : Byte) (payload : Bytes) : Message := { type, funcId, payload, expect := none }

/-- A good request or response frame of n bytes: ACK first, then `MSG` (40_frame_decode.md R116, R117). -/
def acceptMessage (c : Config) (n : Nat) (type funcId : Byte) (payload : Bytes) (s : State) : State :=
  msg c (received type funcId payload) (acceptFrame n s)

/-- A good frame of n bytes with a reserved type: ACK, drop, log (40_frame_decode.md R120). -/
def acceptUnknown (n : Nat) (type funcId : Byte) (payload : Bytes) (s : State) : State :=
  emit (.logDrop type funcId payload) (acceptFrame n s)

/-- The dispatch of a good Data frame on its type byte (30_encoding.md R89, 40_frame_decode.md R111). -/
def dispatchData (c : Config) (n : Nat) (d : DataFrame) (s : State) : State :=
  if d.type = Config.typeReq ∨ d.type = Config.typeRes then acceptMessage c n d.type d.funcId d.payload s
  else acceptUnknown n d.type d.funcId d.payload s

/-- One arm of the receive loop: what FC does with the outcome of `TryParse` (40_frame_decode.md R111). -/
def handleOutcome (c : Config) (o : ParseOutcome) (s : State) : State :=
  match o with
  | .incomplete => s
  | .skip n => consume n s
  | .frame .ack n => linkAck c (consume n s)
  | .frame .nak n => linkNak (consume n s)
  | .frame .can n => linkCan (consume n s)
  | .frame (.data d) n => dispatchData c n d s
  | .invalid .checksum n => rejectFrame n s
  | .invalid .length n => rejectFrame n s

/-- The bytes a W2 frame with this payload takes (30_encoding.md R84). -/
def frameLength (payload : Bytes) : Nat := payload.length + 5

/-- `ACK` (40_frame_decode.md R112). -/
def execAck (s : State) : Result := .next (linkAck Config.host (consume 1 s))

/-- `NAK` (40_frame_decode.md R113). -/
def execNak (s : State) : Result := .next (linkNak (consume 1 s))

/-- `CAN` (40_frame_decode.md R114). -/
def execCan (s : State) : Result := .next (linkCan (consume 1 s))

/-- `DATA.BADLEN` (40_frame_decode.md R119). -/
def execDataBadlen (len : Byte) (s : State) : Result := .next (rejectFrame (len.toNat + 2) s)

/-- `DATA.CSFAIL` (40_frame_decode.md R118). -/
def execDataCsfail (len : Byte) (s : State) : Result := .next (rejectFrame (len.toNat + 2) s)

/-- `DATA.REQ` (40_frame_decode.md R116). -/
def execDataReq (funcId : Byte) (payload : Bytes) (s : State) : Result :=
  .next (acceptMessage Config.host (frameLength payload) Config.typeReq funcId payload s)

/-- `DATA.RES` (40_frame_decode.md R117). -/
def execDataRes (funcId : Byte) (payload : Bytes) (s : State) : Result :=
  .next (acceptMessage Config.host (frameLength payload) Config.typeRes funcId payload s)

/-- `DATA.OTHER` (40_frame_decode.md R120). -/
def execDataOther (type funcId : Byte) (payload : Bytes) (s : State) : Result :=
  .next (acceptUnknown (frameLength payload) type funcId payload s)

/-- `SKIP` (40_frame_decode.md R121). -/
def execSkip (s : State) : Result := .next (consume 1 s)

/-- The result of a call of the encoder (41_frame_encode.md R141). -/
def encodeReply (r : Except ErrCode Bytes) (s : State) : State :=
  match r with
  | .ok f => answer (.bytes f) s
  | .error e => raise e s

/-- `DATA (encode)`: `Serialize`, a pure function; nothing enters `TXQ` (41_frame_encode.md R141, R143; log entry 11). -/
def execDataEncode (type funcId : Byte) (payload : Bytes) (s : State) : Result :=
  .next (encodeReply (serialize type funcId payload) s)

end Sys2Proof.Machine
end

