-- ==== Sys2Proof/Machine/Link.lean ====
section
/-! DEFINITION. The link agents and the receive timer: `RX.BYTE`, `TX.EMIT`, `RX.TIMEOUT`
(spec/40_frame_decode.md R111, R124; spec/41_frame_encode.md R144). -/

namespace Sys2Proof.Machine

/-- The loop of `RX.BYTE`, at most `fuel` symbols: every outcome but `Incomplete` removes at least one byte
(40_frame_decode.md R111). -/
def receiveLoop (c : Config) : Nat → State → State
  | 0, s => s
  | fuel + 1, s =>
    if tryParse s.fc.rxbuf = .incomplete then s
    else receiveLoop c fuel (handleOutcome c (tryParse s.fc.rxbuf) s)

/-- `RX.BYTE b`: append, run the loop until `Incomplete`, set the receive timer (40_frame_decode.md R111). -/
def receiveByte (c : Config) (b : Byte) (s : State) : State :=
  lineTimer (receiveLoop c (s.fc.rxbuf.length + 1) (receive b s))

/-- `RX.BYTE b` (40_frame_decode.md R111). -/
def execRxByte (b : Byte) (s : State) : Result := .next (receiveByte Config.host b s)

/-- `TXQ[0]` goes out on the `tx` port (41_frame_encode.md R144). -/
def emitByte (b : Byte) (rest : Bytes) (s : State) : State :=
  { s with fc.txq := rest, ports.wire := s.ports.wire ++ [b] }

/-- `TX.EMIT`, enabled only when `TXQ` is not empty (41_frame_encode.md R144). -/
def execTxEmit (s : State) : Result :=
  match s.fc.txq with
  | [] => .fault .txqEmpty
  | b :: rest => .next (emitByte b rest s)

/-- `tx([0x15]); RXBUF <- []; RXTMR <- off` (40_frame_decode.md R124). -/
def dropFrame (s : State) : State :=
  { s with fc.txq := s.fc.txq ++ [nakByte], fc.rxbuf := [], fc.rxtmr := false }

/-- `RX.TIMEOUT`, enabled only while `RXTMR` is armed (40_frame_decode.md R124). -/
def execRxTimeout (s : State) : Result :=
  if s.fc.rxtmr then .next (dropFrame s) else .fault .rxTimerNotArmed

end Sys2Proof.Machine
end

