-- ==== Sys2Proof/Machine/Nonces.lean ====
section
/-! DEFINITION. The nonce commands and the nonce timer (spec/43_nonce_and_security_ops.md R201 to R206). -/

namespace Sys2Proof.Machine

/-- The 8 bytes `NT.GENERATE` returns: drawn, the first made one that is not in use (43_nonce_and_security_ops.md R201). -/
def freshNonce (c : Config) (own : NodeId) (s : State) : Bytes :=
  match drawn c Config.nonceLen s with
  | [] => []
  | b :: rest => freshId (usedIds own s.se.nt) b :: rest

/-- `NT.GENERATE forNode` (43_nonce_and_security_ops.md R201). -/
def generateNonce (c : Config) (forNode : NodeId) (s : State) : State :=
  match s.se.ownid with
  | none => raise .precondition s
  | some own =>
    if (usedIds own s.se.nt).length = 256 then raise .nonceTableFull s
    else
      let n := freshNonce c own s
      answer (.bytes n) (spend Config.nonceLen (storeNonce own n forNode false s))

/-- `NT.GENERATE` (43_nonce_and_security_ops.md R201). -/
def execNtGenerate (forNode : NodeId) (s : State) : Result := .next (generateNonce Config.host forNode s)

/-- `NT.STORE` (43_nonce_and_security_ops.md R202). -/
def keepNonce (issuer : NodeId) (nonce : Bytes) (receiver : NodeId) (free : Bool) (s : State) : State :=
  if nonce.length ≠ Config.nonceLen then raise .nonceLength s
  else answer .done (storeNonce issuer nonce receiver free s)

/-- `NT.STORE` (43_nonce_and_security_ops.md R202). -/
def execNtStore (issuer : NodeId) (nonce : Bytes) (receiver : NodeId) (free : Bool) (s : State) : Result :=
  .next (keepNonce issuer nonce receiver free s)

/-- `NT.FINDFREE issuer` (43_nonce_and_security_ops.md R203). -/
def findFree (issuer : NodeId) (s : State) : State :=
  match ntOldest (ntFreeOf issuer s.se.nt) with
  | none => answer (.found none) s
  | some (k, e) => answer (.found (some (k.id, e.nonce))) (setNt (ntSetFree k false s.se.nt) s)

/-- `NT.FINDFREE` (43_nonce_and_security_ops.md R203). -/
def execNtFindfree (issuer : NodeId) (s : State) : Result := .next (findFree issuer s)

/-- `NT.RELEASE issuer id` (43_nonce_and_security_ops.md R205). -/
def releaseNonce (k : NonceKey) (s : State) : State :=
  match ntFind k s.se.nt with
  | none => raise .nonceNotFound s
  | some _ => answer .done (setNt (ntSetFree k true s.se.nt) s)

/-- `NT.RELEASE` (43_nonce_and_security_ops.md R205). -/
def execNtRelease (issuer : NodeId) (id : Byte) (s : State) : Result := .next (releaseNonce { issuer, id } s)

/-- `NT.TAKE issuer id` (43_nonce_and_security_ops.md R204). -/
def takeNonce (k : NonceKey) (s : State) : State :=
  match ntFind k s.se.nt with
  | none => raise .nonceNotFound s
  | some e => answer (.bytes e.nonce) (dropNonce k s)

/-- `NT.TAKE` (43_nonce_and_security_ops.md R204). -/
def execNtTake (issuer : NodeId) (id : Byte) (s : State) : Result := .next (takeNonce { issuer, id } s)

/-- `NT.EXPIRE issuer id`, enabled only when the entry is stored (43_nonce_and_security_ops.md R206). -/
def execNtExpire (issuer : NodeId) (id : Byte) (s : State) : Result :=
  if (ntFind { issuer, id } s.se.nt).isSome then .next (dropNonce { issuer, id } s)
  else .fault (.nonceNotStored { issuer, id })

end Sys2Proof.Machine
end

