-- ==== Sys2Proof/Machine/Security.lean ====
section
/-! DEFINITION. The keyed commands: `SE.SETKEY`, `SE.ENCRYPT`, `SE.DECRYPT`, `SE.MAC`, `SE.VERIFY`
(spec/42_cipher_core.md R179 to R183), `SE.SEAL` and `SE.OPEN` (spec/43_nonce_and_security_ops.md R210, R212). -/

namespace Sys2Proof.Machine

/-- `SE.SETKEY key` (42_cipher_core.md R179). -/
def setKey (key : Bytes) (s : State) : State :=
  if key.length ≠ Config.keyLen then raise .keyLength s
  else if s.se.keyvalid then raise .precondition s
  else answer .done (loadKeys key (authKeyOf key) (encKeyOf key) s)

/-- `SE.SETKEY` (42_cipher_core.md R179). -/
def execSeSetkey (key : Bytes) (s : State) : Result := .next (setKey key s)

/-- A nonce operand of the wrong length (42_cipher_core.md R180, R182). -/
def badNonces (sn rn : Bytes) : Bool := sn.length != Config.nonceLen || rn.length != Config.nonceLen

/-- `Ofb` under `ENCKEY` with its checks: `SE.ENCRYPT` and `SE.DECRYPT` (42_cipher_core.md R180, R181). -/
def crypt (data sn rn : Bytes) (s : State) : State :=
  if s.se.keyvalid = false then raise .noKey s
  else if badNonces sn rn then raise .nonceLength s
  else answer (.bytes (ofb s.se.enckey (iv sn rn) data)) s

/-- `SE.ENCRYPT` (42_cipher_core.md R180). -/
def execSeEncrypt (plaintext sn rn : Bytes) (s : State) : Result := .next (crypt plaintext sn rn s)

/-- `SE.DECRYPT` (42_cipher_core.md R181). -/
def execSeDecrypt (ciphertext sn rn : Bytes) (s : State) : Result := .next (crypt ciphertext sn rn s)

/-- The checks shared by `SE.MAC` and `SE.VERIFY`, in their order (42_cipher_core.md R182). -/
def macError (sn rn ct : Bytes) (s : State) : Option ErrCode :=
  if s.se.keyvalid = false then some .noKey
  else if badNonces sn rn then some .nonceLength
  else if ct.length > 255 then some .precondition
  else none

/-- `SE.MAC` (42_cipher_core.md R182). -/
def computeMac (sn rn : Bytes) (commandId : Byte) (sender receiver : NodeId) (ct : Bytes) (s : State) : State :=
  match macError sn rn ct s with
  | some e => raise e s
  | none => answer (.bytes (macOf s.se.authkey (authData sn rn commandId sender receiver ct))) s

/-- `SE.MAC` (42_cipher_core.md R182). -/
def execSeMac (sn rn : Bytes) (commandId : Byte) (sender receiver : NodeId) (ct : Bytes) (s : State) : Result :=
  .next (computeMac sn rn commandId sender receiver ct s)

/-- `SE.VERIFY`: a `mac` of another length than 8 is `false` (42_cipher_core.md R183). -/
def verifyMac (sn rn : Bytes) (commandId : Byte) (sender receiver : NodeId) (ct mac : Bytes) (s : State) : State :=
  match macError sn rn ct s with
  | some e => raise e s
  | none => answer (.truth (mac.length == Config.macLen &&
      macOf s.se.authkey (authData sn rn commandId sender receiver ct) == mac)) s

/-- `SE.VERIFY` (42_cipher_core.md R183). -/
def execSeVerify (sn rn : Bytes) (commandId : Byte) (sender receiver : NodeId) (ct mac : Bytes) (s : State) : Result :=
  .next (verifyMac sn rn commandId sender receiver ct mac s)

/-- The result of `SE.SEAL` on the `cmd` port (43_nonce_and_security_ops.md R210). -/
def sealCommand (c : Config) (receiver : NodeId) (commandId : Byte) (plaintext : Bytes) (nonceId : Option Byte)
    (s : State) : State :=
  match sealMessage c receiver commandId plaintext nonceId s with
  | (s', .error e) => raise e s'
  | (s', .ok p) => answer (.sealedParts p.senderNonce p.ciphertext p.nonceId p.mac) s'

/-- `SE.SEAL` (43_nonce_and_security_ops.md R210). -/
def execSeSeal (receiver : NodeId) (commandId : Byte) (plaintext : Bytes) (nonceId : Option Byte) (s : State) : Result :=
  .next (sealCommand Config.host receiver commandId plaintext nonceId s)

/-- The checks of `SE.OPEN` before the table is touched, in their order, and the entry it spends
(43_nonce_and_security_ops.md R212). -/
def openChecks (sender : NodeId) (sn ct : Bytes) (nonceId : Byte) (mac : Bytes) (s : State) :
    Except ErrCode (NodeId × NonceEntry) :=
  if s.se.keyvalid = false then .error .noKey
  else match s.se.ownid with
    | none => .error .precondition
    | some own =>
      if sn.length ≠ Config.nonceLen then .error .nonceLength
      else if mac.length ≠ Config.macLen ∨ ct.length > 255 then .error .payloadFormat
      else match ntFind { issuer := own, id := nonceId } s.se.nt with
        | none => .error .nonceNotFound
        | some e => if e.receiver ≠ sender then .error .nonceNotFound else .ok (own, e)

/-- `SE.OPEN`: the entry is deleted before the MAC is looked at, and no plaintext is given unless the MAC matched
(43_nonce_and_security_ops.md R212). -/
def openMessage (sender : NodeId) (commandId : Byte) (sn ct : Bytes) (nonceId : Byte) (mac : Bytes) (s : State) : State :=
  match openChecks sender sn ct nonceId mac s with
  | .error e => raise e s
  | .ok (own, e) =>
    let s' := dropNonce { issuer := own, id := nonceId } s
    if macOf s.se.authkey (authData sn e.nonce commandId sender own ct) ≠ mac then raise .macMismatch s'
    else answer (.bytes (ofb s.se.enckey (iv sn e.nonce) ct)) s'

/-- `SE.OPEN` (43_nonce_and_security_ops.md R212). -/
def execSeOpen (sender : NodeId) (commandId : Byte) (sn ct : Bytes) (nonceId : Byte) (mac : Bytes) (s : State) : Result :=
  .next (openMessage sender commandId sn ct nonceId mac s)

end Sys2Proof.Machine
end

