-- ==== Sys2Proof/Machine/Transactions.lean ====
section
/-! DEFINITION. The transaction machine's own steps, its timers and its commands: `TM.DISPATCH`, `TM.TIMEOUT(k)`, `TM.ADD`,
`TM.REJECT`, `TM.NODE_ASLEEP` (spec/44_transaction_fsm.md R248 to R274). -/

namespace Sys2Proof.Machine

/-- `Q <- Q - {t}; CUR <- some t` (44_transaction_fsm.md R251). -/
def makeCurrent (t : Txn) (s : State) : State :=
  { s with tm.q := s.tm.q.filter (fun x => x ≠ t), tm.cur := some t }

/-- `TM.DISPATCH` taking `t` (44_transaction_fsm.md R251). -/
def dispatchTxn (c : Config) (t : Txn) (s : State) : State :=
  if needHS c t s.se.nt then enterHandshake (makeCurrent t s) else enterExecute c (makeCurrent t s)

/-- `TM.DISPATCH`, enabled only when TM is idle, `LIFE = ready` and `Eligible(Q)` is not empty (44_transaction_fsm.md
R251). -/
def execTmDispatch (s : State) : Result :=
  if s.tm.st = .idle ∧ s.tm.life = .ready then
    match nextTxn s with
    | none => .fault .dispatchNotEnabled
    | some t => .next (dispatchTxn Config.host t s)
  else .fault .dispatchNotEnabled

/-- `TM.TIMEOUT(ack)` (44_transaction_fsm.md R257). -/
def execTmTimeoutAck (s : State) : Result :=
  if s.tm.tmr = .ack then .next (fail .ackTimeout s) else .fault (.timerNotArmed .ack)

/-- `TM.TIMEOUT(resp)` (44_transaction_fsm.md R259). -/
def execTmTimeoutResp (s : State) : Result :=
  if s.tm.tmr = .resp then .next (fail .responseTimeout s) else .fault (.timerNotArmed .resp)

/-- `TM.TIMEOUT(upd)` (44_transaction_fsm.md R265). -/
def execTmTimeoutUpd (s : State) : Result :=
  if s.tm.tmr = .upd then .next (fail .updateTimeout s) else .fault (.timerNotArmed .upd)

/-- What the end of `retryWait` starts (44_transaction_fsm.md R267). -/
def retryAttempt (c : Config) (s : State) : State :=
  if s.tm.hsf then enterHandshake (disarm s) else enterExecute c (disarm s)

/-- `TM.TIMEOUT(retry)` (44_transaction_fsm.md R267). -/
def execTmTimeoutRetry (s : State) : Result :=
  if s.tm.tmr = .retry then .next (retryAttempt Config.host s) else .fault (.timerNotArmed .retry)

/-- `t0.id` is the id of `CUR` or of a member of `Q` (44_transaction_fsm.md R248). -/
def idInUse (i : TxnId) (t : TmRegs) : Bool :=
  (match t.cur with
   | none => false
   | some x => x.id == i) || t.q.any fun x => x.id == i

/-- A payload too long for a frame (44_transaction_fsm.md R248). -/
def tooLong (m : Message) : Bool := decide (m.payload.length > Config.maxPayload)

/-- The checks of `TM.ADD`, in their order (44_transaction_fsm.md R248). -/
def addError (t : TxnSpec) (s : State) : Option ErrCode :=
  if s.tm.life = .destroyed then some .notReady
  else if specAttempts t = 0 ∨ tooLong t.msg ∨ t.hsMsg.any tooLong ∨ idInUse t.id s.tm then some .precondition
  else if t.secure ∧ s.se.keyvalid = false then some .noKey
  else none

/-- `TM.ADD t0` (44_transaction_fsm.md R248). -/
def addTxn (t : TxnSpec) (s : State) : State :=
  match addError t s with
  | some e => raise e s
  | none => answer .done (stamp (setQ (qInsert (txnOfSpec t s.seq) s.tm.q) s))

/-- `TM.ADD` (44_transaction_fsm.md R248). -/
def execTmAdd (t : TxnSpec) (s : State) : Result := .next (addTxn t s)

/-- Remove from `Q`, settle and report every transaction that satisfies `p`, in `Compare` order (44_transaction_fsm.md
R272). -/
def purgeQueue (p : Txn → Bool) (o : TxnOutcome) (s : State) : State :=
  reportAll o (inOrder s.pins (s.tm.q.filter p)) (setQ (s.tm.q.filter fun t => !p t) s)

/-- `CUR = some c and P(c)` (44_transaction_fsm.md R272). -/
def curMatches (p : Txn → Bool) (s : State) : Bool := s.tm.cur.any p

/-- Purge the queue, then `CUR` if it matches (44_transaction_fsm.md R272; 70_reset_and_hazards.md R382). -/
def purge (p : Txn → Bool) (o : TxnOutcome) (s : State) : State :=
  if curMatches p s then finalize o (purgeQueue p o s) else purgeQueue p o s

/-- The number of transactions `purge` settles (44_transaction_fsm.md R272). -/
def purgeCount (p : Txn → Bool) (s : State) : Nat :=
  (s.tm.q.filter p).length + if curMatches p s then 1 else 0

/-- `TM.REJECT P reason` (44_transaction_fsm.md R272). -/
def rejectTxns (c : Config) (p : TxnPred) (reason : ErrCode) (s : State) : State :=
  answer (.count (purgeCount (predHolds c p) s)) (purge (predHolds c p) (.failure reason none) s)

/-- `TM.REJECT` (44_transaction_fsm.md R272). -/
def execTmReject (p : TxnPred) (reason : ErrCode) (s : State) : Result :=
  .next (rejectTxns Config.host p reason s)

/-- `t.node = some n and t.priority != PRIO_HANDSHAKE` (44_transaction_fsm.md R274). -/
def fallsAsleep (n : NodeId) (t : Txn) : Bool := t.node == some n && t.priority != Config.prioHandshake

/-- A ping of the node, which is dropped outright (44_transaction_fsm.md R274). -/
def droppedPing (n : NodeId) (t : Txn) : Bool := fallsAsleep n t && t.isPing

/-- `t.priority <- PRIO_WAKEUP` (44_transaction_fsm.md R274). -/
def retag (t : Txn) : Txn := { t with priority := Config.prioWakeup }

/-- A queued transaction after its node fell asleep, if it is not dropped (44_transaction_fsm.md R274). -/
def retagQueued (n : NodeId) (t : Txn) : Txn := if fallsAsleep n t then retag t else t

/-- The first loop of `TM.NODE_ASLEEP`, over `Q`; the order in which several pings are reported is free
(44_transaction_fsm.md R274; log entry 13). -/
def sleepQueue (c : Config) (n : NodeId) (s : State) : State :=
  reportAll (.failure .dropped none) (inFreeOrder c s.ports.choices (s.tm.q.filter (droppedPing n)))
    (choose (setQ ((s.tm.q.filter fun t => !droppedPing n t).map (retagQueued n)) s))

/-- `c.priority <- PRIO_WAKEUP; Q <- Q + {c}`, then TM is idle with nothing latched (44_transaction_fsm.md R274). -/
def requeue (t : Txn) (s : State) : State := toIdle (setQ (qInsert (retag t) s.tm.q) s)

/-- The second part of `TM.NODE_ASLEEP`, for `CUR` (44_transaction_fsm.md R274). -/
def sleepCurrent (n : NodeId) (s : State) : State :=
  match s.tm.cur with
  | none => s
  | some t =>
    if fallsAsleep n t then
      if t.isPing then finalize (.failure .dropped none) s else requeue t s
    else s

/-- `TM.NODE_ASLEEP n` (44_transaction_fsm.md R274). -/
def execTmNodeAsleep (node : NodeId) (s : State) : Result :=
  .next (answer .done (sleepCurrent node (sleepQueue Config.host node s)))

end Sys2Proof.Machine
end

