-- ==== Sys2Proof/Machine/System.lean ====
section
/-! DEFINITION. The system commands: `SYS.RESET`, `SYS.DESTROY`, `SYS.SETID`, `SYS.STATUS`
(spec/70_reset_and_hazards.md R381, R382; spec/43_nonce_and_security_ops.md R200; spec/60_exceptions.md R364). -/

namespace Sys2Proof.Machine

/-- `every register <- its reset value` (10_state.md R57). The ports, the host predicates and what the environment does
next are no registers and stay (log entry 4). -/
def resetRegs (s : State) : State := { s with fc := resetFc, se := resetSe, tm := resetTm, seq := 0 }

/-- The transactions that are unsettled, in the order `SYS.RESET` settles them: `Q` in `Compare` order, then `CUR`
(70_reset_and_hazards.md R381). -/
def unsettled (s : State) : List Txn := inOrder s.pins s.tm.q ++ s.tm.cur.toList

/-- `SYS.RESET` (70_reset_and_hazards.md R381). -/
def execSysReset (s : State) : Result :=
  .next (answer .done (resetRegs (reportAll (.failure .driverDestroyed none) (unsettled s) s)))

/-- `SYS.DESTROY`: `TM.REJECT (fun _ => true) ERR_DRIVER_DESTROYED` followed by `LIFE <- destroyed`
(70_reset_and_hazards.md R382). -/
def execSysDestroy (s : State) : Result :=
  .next (answer .done (destroy (purge (fun _ => true) (.failure .driverDestroyed none) s)))

/-- `OWNID <- some(id)` (43_nonce_and_security_ops.md R200). -/
def setOwnid (id : NodeId) (s : State) : State := { s with se.ownid := some id }

/-- `SYS.SETID id` (43_nonce_and_security_ops.md R200). -/
def execSysSetid (id : NodeId) (s : State) : Result := .next (answer .done (setOwnid id s))

/-- The eight observables (60_exceptions.md R364). -/
def statusOf (s : State) : Status :=
  { st := s.tm.st, ph := s.tm.ph, keyvalid := s.se.keyvalid, life := s.tm.life, queued := s.tm.q.length,
    nonces := s.se.nt.length, received := s.fc.rxbuf.length, toSend := s.fc.txq.length }

/-- `SYS.STATUS` (60_exceptions.md R364). -/
def execSysStatus (s : State) : Result := .next (answer (.status (statusOf s)) s)

end Sys2Proof.Machine
end

