-- ==== Sys2Proof/Machine/Dispatch.lean ====
section
/-! DEFINITION. The meaning of every instruction: one arm per constructor of `Instr`. -/

namespace Sys2Proof.Machine

def exec (i : Instr) (s : State) : Host.Outcome State Fault Refusal :=
  match i with
  | .ack => Sys2Proof.Machine.execAck s
  | .nak => Sys2Proof.Machine.execNak s
  | .can => Sys2Proof.Machine.execCan s
  | .dataBadlen len _ => Sys2Proof.Machine.execDataBadlen len s
  | .dataCsfail len _ => Sys2Proof.Machine.execDataCsfail len s
  | .dataReq funcId payload => Sys2Proof.Machine.execDataReq funcId payload s
  | .dataRes funcId payload => Sys2Proof.Machine.execDataRes funcId payload s
  | .dataOther type funcId payload => Sys2Proof.Machine.execDataOther type funcId payload s
  | .skip _ => Sys2Proof.Machine.execSkip s
  | .dataEncode type funcId payload => Sys2Proof.Machine.execDataEncode type funcId payload s
  | .rxByte b => Sys2Proof.Machine.execRxByte b s
  | .txEmit => Sys2Proof.Machine.execTxEmit s
  | .tmDispatch => Sys2Proof.Machine.execTmDispatch s
  | .tmTimeoutAck => Sys2Proof.Machine.execTmTimeoutAck s
  | .tmTimeoutResp => Sys2Proof.Machine.execTmTimeoutResp s
  | .tmTimeoutUpd => Sys2Proof.Machine.execTmTimeoutUpd s
  | .tmTimeoutRetry => Sys2Proof.Machine.execTmTimeoutRetry s
  | .rxTimeout => Sys2Proof.Machine.execRxTimeout s
  | .ntExpire issuer id => Sys2Proof.Machine.execNtExpire issuer id s
  | .sysReset => Sys2Proof.Machine.execSysReset s
  | .sysDestroy => Sys2Proof.Machine.execSysDestroy s
  | .sysSetid id => Sys2Proof.Machine.execSysSetid id s
  | .sysStatus => Sys2Proof.Machine.execSysStatus s
  | .seSetkey key => Sys2Proof.Machine.execSeSetkey key s
  | .seEncrypt plaintext sn rn => Sys2Proof.Machine.execSeEncrypt plaintext sn rn s
  | .seDecrypt ciphertext sn rn => Sys2Proof.Machine.execSeDecrypt ciphertext sn rn s
  | .seMac sn rn commandId sender receiver ct => Sys2Proof.Machine.execSeMac sn rn commandId sender receiver ct s
  | .seVerify sn rn commandId sender receiver ct mac => Sys2Proof.Machine.execSeVerify sn rn commandId sender receiver ct mac s
  | .seSeal receiver commandId plaintext nonceId => Sys2Proof.Machine.execSeSeal receiver commandId plaintext nonceId s
  | .seOpen sender commandId sn ct nonceId mac => Sys2Proof.Machine.execSeOpen sender commandId sn ct nonceId mac s
  | .ntGenerate forNode => Sys2Proof.Machine.execNtGenerate forNode s
  | .ntStore issuer nonce receiver free => Sys2Proof.Machine.execNtStore issuer nonce receiver free s
  | .ntFindfree issuer => Sys2Proof.Machine.execNtFindfree issuer s
  | .ntRelease issuer id => Sys2Proof.Machine.execNtRelease issuer id s
  | .ntTake issuer id => Sys2Proof.Machine.execNtTake issuer id s
  | .tmAdd t => Sys2Proof.Machine.execTmAdd t s
  | .tmReject p reason => Sys2Proof.Machine.execTmReject p reason s
  | .tmNodeAsleep node => Sys2Proof.Machine.execTmNodeAsleep node s

end Sys2Proof.Machine
end

