-- ==== Sys2Proof/Machine/Fetch.lean ====
section
/-! DEFINITION. Where the machine takes its next instruction from. FC's decode position is the front of `RXBUF`
(spec/10_state.md R51): a complete symbol that stands there, as it does in the middle of a fed chunk, is run first, one
symbol a step, which is the loop of spec/40_frame_decode.md R111 gone on with (log entry 3). Otherwise the agent that the
environment names moves (spec/00_scope.md R9; log entry 1). -/

namespace Sys2Proof.Machine

/-- What the next step is. -/
inductive Fetched
  /-- A complete symbol stands at the front of `RXBUF`. -/
  | symbol (i : Instr)
  /-- An agent moves; `rest` is what the environment does after. -/
  | instr (i : Instr) (rest : List Input)
  /-- The host predicates change. -/
  | newPins (p : HostPins) (rest : List Input)
  /-- The bytes on the `cmd` port are no command. -/
  | badCommand (rest : List Input)
  /-- The bytes on the `tmr` port are no timer event. -/
  | badTimer (w : Bytes)
  /-- Nothing happens. -/
  | nothing
deriving DecidableEq, Repr, Inhabited

/-- An agent's move, decoded. -/
def fetchMove (m : Move) (rest : List Input) : Fetched :=
  match decodeMove m with
  | .ok i => .instr i rest
  | .error _ =>
    match m with
    | .tmr w => .badTimer w
    | .cmd _ => .badCommand rest
    | .rx _ => .badCommand rest
    | .emit => .badCommand rest
    | .dispatch => .badCommand rest
    | .serialize _ _ _ => .badCommand rest

/-- What the environment does next. -/
def fetchInput (l : List Input) : Fetched :=
  match l with
  | [] => .nothing
  | .pins p :: rest => .newPins p rest
  | .move m :: rest => fetchMove m rest

/-- What the next step is. -/
def fetch (s : State) : Fetched :=
  match decodeLine s.fc.rxbuf with
  | .ok i => .symbol i
  | .error _ => fetchInput s.sched

/-- A command code that is not in the table, or operand bytes that are no operands of it: `ERR_PRECONDITION`, no other
change (30_encoding.md R92, 93_implementation_defined.md U17; log entry 5). -/
def refuseCommand (s : State) : State := raise .precondition s

/-- Nothing complete stands at the decode position. -/
def clearLine (s : State) : State :=
  match decodeLine s.fc.rxbuf with
  | .ok _ => { s with fc.rxbuf := [] }
  | .error _ => s

/-- Store a table word where the next step takes its instruction from (log entry 6). -/
def placeWord (s : State) (nbits w : Nat) : State :=
  match tableSource nbits w with
  | none => s
  | some (.line buf) => { s with fc.rxbuf := buf }
  | some (.port m) => setSched (.move m :: s.sched) (clearLine s)

end Sys2Proof.Machine
end

