-- ==== Sys2Proof/Machine/Step.lean ====
section
/-! DEFINITION. One step of the machine: one move of one agent (spec/00_scope.md R9, spec/20_memory.md R68). -/

namespace Sys2Proof.Machine

/-- One step. A symbol at the decode position is run and the receive timer set, as the loop of 40_frame_decode.md R111
does; an agent's move is run; a change of the host predicates is taken over; bytes that are no command are answered
`ERR_PRECONDITION` (30_encoding.md R92); bytes that are no timer event are refused; where nothing happens the block
waits. -/
def step (s : State) : Host.Outcome State Fault Refusal :=
  match fetch s with
  | .symbol i => mapNext lineTimer (exec i s)
  | .instr i rest => exec i (setSched rest s)
  | .newPins p rest => .next (setPins p (setSched rest s))
  | .badCommand rest => .next (refuseCommand (setSched rest s))
  | .badTimer w => .refused (.noSuchTimer w)
  | .nothing => .next s

/-- `s` with a table word stored where the next step takes its instruction from. -/
def State.withFetchWord (s : State) (nbits w : Nat) : State := placeWord s nbits w

end Sys2Proof.Machine
end

