-- ==== Sys2Proof/Safety.lean ====
section
/-! DEFINITION. What holds between steps: the invariants of the three units (spec/10_state.md R21, R23, R31, R33, R38 to
R42, spec/44_transaction_fsm.md R242), and the shapes that statements about a next state are written in, each spelled out
from its rule and not from the operations of the model. -/

namespace Sys2Proof.Machine

/-! ### Invariants -/

/-- `RXBUF` is empty, or it is an incomplete Data frame (10_state.md R21). -/
def waitingFrame (buf : Bytes) : Prop :=
  buf = [] ∨ (buf.head? = some sofByte ∧ (buf.length = 1 ∨ buf.length < (buf.getD 1 0).toNat + 2))

/-- FC between steps: the receive buffer (10_state.md R21) and its timer, armed exactly when the buffer is not empty
(10_state.md R23). -/
def FcInv (s : State) : Prop := waitingFrame s.fc.rxbuf ∧ (s.fc.rxtmr = true ↔ s.fc.rxbuf ≠ [])

/-- One entry of the nonce table: exactly 8 bytes, the id is the first of them, the stamp is an old value of `SEQ`
(10_state.md R33, R42). -/
def nonceEntryOk (seq : Nat) (x : NonceKey × NonceEntry) : Prop :=
  x.2.nonce.length = 8 ∧ x.2.nonce.head? = some x.1.id ∧ x.2.created < seq

/-- The nonce table: no two entries share a key, in the one order the model keeps (10_state.md R33; log entry 18); stamps
are distinct (10_state.md R42). -/
def NtInv (s : State) : Prop :=
  s.se.nt.Pairwise (fun x y => keyRank x.1 < keyRank y.1) ∧
  s.se.nt.Pairwise (fun x y => x.2.created ≠ y.2.created) ∧
  ∀ x ∈ s.se.nt, nonceEntryOk s.seq x

/-- The three key registers are 16 bytes wide (10_state.md R31). -/
def KeyInv (s : State) : Prop :=
  s.se.netkey.length = 16 ∧ s.se.authkey.length = 16 ∧ s.se.enckey.length = 16

/-- A transaction that is not settled: its outcome is pending, it has an attempt left, its messages fit in a frame, its
stamp is an old value of `SEQ` (10_state.md R36, R40, R42; 44_transaction_fsm.md R242 (d), (e), R248). -/
def txnOk (seq : Nat) (t : Txn) : Prop :=
  t.outcome = .pending ∧ t.attempts < t.maxAttempts ∧ t.msg.payload.length ≤ 252 ∧
  (∀ h, t.hsMsg = some h → h.payload.length ≤ 252) ∧ t.created < seq

/-- The queue: unsettled transactions, no two with one id or one stamp, in the one order the model keeps (10_state.md R36,
R40, R42; log entry 18). -/
def QueueInv (s : State) : Prop :=
  s.tm.q.Pairwise (fun x y => x.created < y.created) ∧ s.tm.q.Pairwise (fun x y => x.id ≠ y.id) ∧
  ∀ t ∈ s.tm.q, txnOk s.seq t

/-- The current transaction is unsettled and not in the queue (44_transaction_fsm.md R242 (d), (e)). -/
def CurInv (s : State) : Prop :=
  ∀ c, s.tm.cur = some c → txnOk s.seq c ∧ ∀ t ∈ s.tm.q, t.id ≠ c.id ∧ t.created ≠ c.created

/-- What `TMR` holds (10_state.md R39). -/
def TimerInv (r : TmRegs) : Prop :=
  (r.tmr = .ack ↔ r.ph = .waitAck) ∧ (r.tmr = .resp ↔ r.ph = .waitReply) ∧ (r.tmr = .upd ↔ r.st = .waitForUpdate) ∧
  (r.tmr = .retry ↔ r.st = .retryWait) ∧ (r.tmr = .off ↔ r.st = .idle)

/-- What is latched in each state of TM: nothing in `idle`; the transaction's frame from the first entry to `execute` on,
and never before, so not while a handshake runs or waits for its retry (10_state.md R38; 44_transaction_fsm.md R252, R253,
R268). -/
def LatchInv (r : TmRegs) : Prop :=
  (r.st = .idle → r.hsf = false ∧ r.txframe = none ∧ r.hsreply = none ∧ r.cause = none) ∧
  (r.st = .handshake ∨ (r.st = .retryWait ∧ r.hsf = true) → r.txframe = none ∧ ∃ c h, r.cur = some c ∧ c.hsMsg = some h) ∧
  (r.st = .execute ∨ r.st = .waitForUpdate ∨ (r.st = .retryWait ∧ r.hsf = false) → r.txframe ≠ none) ∧
  (r.ph = .waitReply → activeExpect r ≠ none)

/-- TM between steps (44_transaction_fsm.md R242). -/
def TmInv (s : State) : Prop :=
  (s.tm.cur = none ↔ s.tm.st = .idle) ∧ (s.tm.ph ≠ .none ↔ s.tm.st = .handshake ∨ s.tm.st = .execute) ∧
  TimerInv s.tm ∧ LatchInv s.tm ∧ CurInv s ∧ QueueInv s

/-- The machine between steps. -/
def Inv (s : State) : Prop := FcInv s ∧ KeyInv s ∧ NtInv s ∧ TmInv s

/-! ### Shapes of a next state -/

/-- A command has returned `r`, and nothing else has changed. -/
def replied (r : Reply) (s : State) : State := { s with ports.replies := s.ports.replies ++ [r] }

/-- TM idle with nothing latched; the queue and `LIFE` as they were (44_transaction_fsm.md R268). -/
def idleRegs (r : TmRegs) : TmRegs :=
  { st := .idle, ph := .none, cur := none, hsf := false, txframe := none, hsreply := none, cause := none, tmr := .off,
    q := r.q, life := r.life }

/-- `c` is settled with `o` and reported, and TM is idle (44_transaction_fsm.md R268). -/
def settledWith (c : Txn) (o : TxnOutcome) (s : State) : State :=
  { s with tm := idleRegs s.tm, ports.events := s.ports.events ++ [.txnDone c.id o] }

/-- What the retry policy leaves of a failed attempt of `c` with this cause; `hs` is what goes into `HSF`
(44_transaction_fsm.md R266). -/
def failedWith (c : Txn) (hs : Bool) (cause : ErrCode) (s : State) : State :=
  if c.attempts + 1 < c.maxAttempts then
    { s with tm.st := .retryWait, tm.ph := .none, tm.tmr := .retry, tm.hsf := hs, tm.cause := some cause,
             tm.cur := some { c with attempts := c.attempts + 1 } }
  else settledWith c (.failure .maxAttempts (some cause)) s

/-- An attempt with the frame `f` has been started in state `st` (44_transaction_fsm.md R244, R252, R253). -/
def attempting (st : TmState) (f : Bytes) (s : State) : State :=
  { s with fc.txq := s.fc.txq ++ f, tm.st := st, tm.ph := .waitAck, tm.tmr := .ack }

/-- The frame of a message whose payload fits (41_frame_encode.md R141). -/
def frameOf (m : Message) (payload : Bytes) : Bytes := frameBytes m.type m.funcId payload

/-- The transaction's own frame has been built, latched and sent (44_transaction_fsm.md R253). -/
def executing (c : Txn) (payload : Bytes) (s : State) : State :=
  attempting .execute (frameOf c.msg payload) { s with tm.txframe := some (frameOf c.msg payload) }

/-- The instructions of the host command port (30_encoding.md R92). -/
def isHostCommand (i : Instr) : Bool :=
  match encode i with
  | .port (.cmd _) => true
  | .port (.rx _) => false
  | .port .emit => false
  | .port .dispatch => false
  | .port (.tmr _) => false
  | .port (.serialize _ _ _) => false
  | .line _ => false

/-- The unsettled transactions of TM: those of the queue and the current one (70_reset_and_hazards.md R381). -/
def unsettledIds (r : TmRegs) : List TxnId := r.q.map (fun t => t.id) ++ r.cur.toList.map (fun t => t.id)

/-- The ids that a list of events reports as settled. -/
def doneIds (l : List Event) : List TxnId :=
  l.filterMap fun e => match e with
    | .logDrop _ _ _ => none
    | .unsolicited _ => none
    | .txnDone id _ => some id

/-- What FC itself transmits in answer to the symbol at the front of a buffer: ACK for a good Data frame, NAK for a bad one,
nothing for anything else (40_frame_decode.md R127). -/
def linkAnswer (o : ParseOutcome) : Bytes :=
  match o with
  | .incomplete => []
  | .skip _ => []
  | .frame .ack _ => []
  | .frame .nak _ => []
  | .frame .can _ => []
  | .frame (.data _) _ => [ackByte]
  | .invalid _ _ => [nakByte]

/-- `l` is the list `ts` in `Compare` order (45_host_boundary.md R302). -/
def comparedList (p : HostPins) (ts l : List Txn) : Prop := l.Perm ts ∧ l.Pairwise (fun a b => sortsBefore p b a = false)

/-- A nonce that node `issuer` issued for node `receiver` (10_state.md R33). -/
abbrev issuedFor (issuer receiver : NodeId) (x : NonceKey × NonceEntry) : Prop :=
  x.1.issuer = issuer ∧ x.2.receiver = receiver

/-- `x` is an entry of `nt` that `issuer` issued for `receiver`, and none of these has a smaller stamp
(43_nonce_and_security_ops.md R210, 92_eei_decisions.md D42). -/
def oldestFor (issuer receiver : NodeId) (nt : NonceTable) (x : NonceKey × NonceEntry) : Prop :=
  x ∈ nt ∧ issuedFor issuer receiver x ∧ ∀ y ∈ nt, issuedFor issuer receiver y → x.2.created ≤ y.2.created

/-- No transaction of a node that is asleep may be taken (45_host_boundary.md R303). -/
def awake (p : HostPins) (t : Txn) : Prop := ∀ n, t.node = some n → n ∉ p.asleep

/-- `c` has been taken from the queue (44_transaction_fsm.md R251). -/
def taken (c : Txn) (s : State) : State := { s with tm.q := s.tm.q.filter (fun x => x ≠ c), tm.cur := some c }

/-- The MAC of a message (42_cipher_core.md R176, R177). -/
def macFor (authkey sn rn : Bytes) (commandId : Byte) (sender receiver : NodeId) (ct : Bytes) : Bytes :=
  (cbcMacFull authkey (sn ++ rn ++ [commandId, sender, receiver, BitVec.ofNat 8 ct.length] ++ ct)).take 8

/-- The next eight bytes of the `rnd` port (00_scope.md R10; log entry 10). -/
def nextRandom (s : State) : Bytes := (List.range 8).map fun i => Config.host.rnd (s.ports.drawn + i)

/-- The nonce under `k` is spent and eight random bytes have been drawn (43_nonce_and_security_ops.md R210). -/
def spent (k : NonceKey) (s : State) : State :=
  { s with se.nt := s.se.nt.filter (fun x => x.1 ≠ k), ports.drawn := s.ports.drawn + 8 }

/-- The payload of a secure transaction, sealed by node `own` for node `n` with the nonce `e` under `k`
(44_transaction_fsm.md R258). -/
def sealedPayload (c : Txn) (own n : NodeId) (k : NonceKey) (e : NonceEntry) (s : State) : Bytes :=
  let ct := ofb s.se.enckey (nextRandom s ++ e.nonce) c.secPlain
  Config.host.secLayout c (nextRandom s) ct k.id (macFor s.se.authkey (nextRandom s) e.nonce c.secCmd own n ct)

/-- What sealing the frame of the secure transaction `c` leaves, once the key, the node id and the length are in order:
without a nonce that node `n` issued for `own`, a failed handshake attempt or a settled transaction; with one, the oldest is
spent, and the frame is sent if its payload fits (44_transaction_fsm.md R253, R258; 43_nonce_and_security_ops.md R210;
92_eei_decisions.md D42, log entry 19). -/
def sealsFrame (c : Txn) (own n : NodeId) (s t : State) : Prop :=
  ((∀ x ∈ s.se.nt, ¬ issuedFor n own x) →
    t = if c.hsMsg.isSome then failedWith c true .noNonce s else settledWith c (.failure .noNonce none) s) ∧
  ((∃ x ∈ s.se.nt, issuedFor n own x) →
    ∃ k e, oldestFor n own s.se.nt (k, e) ∧
      t = if (sealedPayload c own n k e s).length > 252 then settledWith c (.failure .precondition none) (spent k s)
          else executing c (sealedPayload c own n k e s) (spent k s))

/-- What `EnterExecute` leaves of `s` with `c` current (44_transaction_fsm.md R253, R258): a latched frame is sent again
unchanged; without one, the frame of a plain transaction is built, latched and sent; a secure one is sealed first, and an
error settles it, but for a missing nonce after a handshake. -/
def entersExecute (c : Txn) (s t : State) : Prop :=
  (∀ f, s.tm.txframe = some f → t = attempting .execute f s) ∧
  (s.tm.txframe = none → c.secure = false → c.msg.payload.length ≤ 252 → t = executing c c.msg.payload s) ∧
  (s.tm.txframe = none → c.secure = true →
    (c.node = none → t = settledWith c (.failure .precondition none) s) ∧
    ∀ n, c.node = some n →
      (s.se.keyvalid = false → t = settledWith c (.failure .noKey none) s) ∧
      (s.se.keyvalid = true → s.se.ownid = none ∨ c.secPlain.length > 255 →
        t = settledWith c (.failure .precondition none) s) ∧
      ∀ own, s.se.keyvalid = true → s.se.ownid = some own → c.secPlain.length ≤ 255 → sealsFrame c own n s t)

/-- A handshake of `c` has ended with the reply `r`: the timer is off, the reply is latched, and the nonce the reply carries
is stored reserved for the node of `c` (44_transaction_fsm.md R261, R262). -/
def handshaken (r : Option Message) (c : Txn) (s : State) : State :=
  let s1 : State := { s with tm.tmr := .off, tm.ph := .none, tm.hsreply := r }
  match r.bind Config.host.nonceOf, c.node, s.se.ownid with
  | some n, some i, some o =>
    { s1 with se.nt := ntPut { issuer := i, id := n.toList.getD 0 0 }
                { nonce := n.toList, receiver := o, free := false, created := s.seq } s.se.nt,
              seq := s.seq + 1 }
  | _, _, _ => s1

/-- `execute` has ended with the result `r` (44_transaction_fsm.md R261, R263). -/
def executed (r : Option Message) (c : Txn) (s : State) : State :=
  if c.expectsUpdate then { s with tm.st := .waitForUpdate, tm.ph := .none, tm.tmr := .upd }
  else settledWith c (.success r) s

/-- FC has taken a good Data frame with this payload off the front of `RXBUF` and queued the ACK (40_frame_decode.md R115).
-/
def acknowledged (payload : Bytes) (s : State) : State :=
  { s with fc.rxbuf := s.fc.rxbuf.drop (payload.length + 5), fc.txq := s.fc.txq ++ [0x06] }

/-- `EVT_UNSOLICITED` has been reported (60_exceptions.md R350). -/
def unsolicited (m : Message) (s : State) : State := { s with ports.events := s.ports.events ++ [.unsolicited m] }

/-- The two instructions that hand TM a received Message, with the type byte of each (40_frame_decode.md R116, R117). -/
def messageInstr (response : Bool) (funcId : Byte) (payload : Bytes) : Instr × Message :=
  if response then (.dataRes funcId payload, { type := 0x01, funcId, payload, expect := none })
  else (.dataReq funcId payload, { type := 0x00, funcId, payload, expect := none })

/-- The state without the contents of the three key registers. -/
def keyless (s : State) : State := { s with se.netkey := [], se.authkey := [], se.enckey := [] }

/-- The predicate that the operand of `TM.REJECT` stands for (44_transaction_fsm.md R272; log entry 7). -/
def rejects (p : TxnPred) (t : Txn) : Bool :=
  match p with
  | .all => true
  | .nodeIs n => t.node == some n
  | .named k => Config.host.txnPred k t

/-- A transaction that `TM.NODE_ASLEEP n` touches: it targets n and is no handshake (44_transaction_fsm.md R274). -/
def touchedBySleep (n : NodeId) (t : Txn) : Bool := t.node == some n && t.priority != 1

end Sys2Proof.Machine
end

