-- ==== Sys2Proof/Certificates/Slice0/Obligations.lean ====
section
/-! DEFINITION. The statements for the provers: what the rules of the spec say of the machine, instruction by instruction,
then of every instruction and of every step. The configuration `Config.host` has no body: every statement holds for every
configuration of the host and the platform. -/

section
open Sys2Proof Sys2Proof.Machine

/-! ### Reset -/

/-- The registers at reset, but for the three key registers (10_state.md R57, 70_reset_and_hazards.md R380). -/
def Obligations.ResetRegisters : Prop :=
  State.reset.fc = { rxbuf := [], rxtmr := false, txq := [] } ∧
  State.reset.se.ownid = none ∧ State.reset.se.keyvalid = false ∧ State.reset.se.nt = [] ∧
  State.reset.tm = { st := .idle, ph := .none, cur := none, hsf := false, txframe := none, hsreply := none, cause := none,
                     tmr := .off, q := [], life := .ready } ∧
  State.reset.seq = 0 ∧ State.reset.ports.wire = [] ∧ State.reset.ports.events = []

/-- The three key registers at reset: sixteen zero bytes. The MODEL's choice (DESIGN CHOICE, log entry 12), where the spec
says that they hold no value (10_state.md R31). -/
def Obligations.ResetKeyRegisters : Prop :=
  State.reset.se.netkey = List.replicate 16 0 ∧ State.reset.se.authkey = List.replicate 16 0 ∧
  State.reset.se.enckey = List.replicate 16 0

/-- The invariants of all units hold at reset (44_transaction_fsm.md R242; 10_state.md R21, R33). -/
def Obligations.ResetInvariant : Prop := Inv State.reset

/-! ### System commands -/

/-- `SYS.RESET` settles the queue in `Compare` order, then the current transaction, each with
`Failure(ERR_DRIVER_DESTROYED, none)`, and puts every register at its reset value (70_reset_and_hazards.md R381). The ports,
the host predicates and the schedule are no registers and stay (log entry 4); that the key registers are zero after it is
the model's choice (log entry 12). -/
def Obligations.SysResetSettlesAndResets : Prop :=
  ∀ s, ∃ l, comparedList s.pins s.tm.q l ∧
    exec .sysReset s = .next
      { s with
        fc := State.reset.fc, se := State.reset.se, tm := State.reset.tm, seq := 0,
        ports.events := s.ports.events ++
          (l ++ s.tm.cur.toList).map (fun t => Event.txnDone t.id (.failure .driverDestroyed none)),
        ports.replies := s.ports.replies ++ [.done] }

/-- `SYS.DESTROY` settles the queue in `Compare` order, then the current transaction, and sets `LIFE` to destroyed; buffers,
keys and nonces stay (70_reset_and_hazards.md R382). -/
def Obligations.SysDestroySettlesAndEnds : Prop :=
  ∀ s, ∃ l, comparedList s.pins s.tm.q l ∧
    exec .sysDestroy s = .next
      { s with
        tm := { (if s.tm.cur.isSome then idleRegs s.tm else s.tm) with q := [], life := .destroyed },
        ports.events := s.ports.events ++
          (l ++ s.tm.cur.toList).map (fun t => Event.txnDone t.id (.failure .driverDestroyed none)),
        ports.replies := s.ports.replies ++ [.done] }

/-- `SYS.SETID` writes the node id and nothing else; the nonce entries keep their keys (43_nonce_and_security_ops.md R200).
`SYS.STATUS` answers the eight observables and changes nothing (60_exceptions.md R364). -/
def Obligations.SysSetidStatusResults : Prop :=
  (∀ s id, exec (.sysSetid id) s = .next
    { s with se.ownid := some id, ports.replies := s.ports.replies ++ [.done] }) ∧
  ∀ s, exec .sysStatus s = .next (replied (.status
    { st := s.tm.st, ph := s.tm.ph, keyvalid := s.se.keyvalid, life := s.tm.life, queued := s.tm.q.length,
      nonces := s.se.nt.length, received := s.fc.rxbuf.length, toSend := s.fc.txq.length }) s)

/-! ### The cipher commands -/

/-- `SE.SETKEY`: length first, then the second load, then the key and its two derived keys (42_cipher_core.md R178, R179). -/
def Obligations.SeSetkeyLoadsKeys : Prop :=
  ∀ s key, exec (.seSetkey key) s = .next
    (if key.length ≠ 16 then replied (.error .keyLength) s
     else if s.se.keyvalid = true then replied (.error .precondition) s
     else { s with
            se.netkey := key, se.authkey := aesEnc key (List.replicate 16 0x55),
            se.enckey := aesEnc key (List.replicate 16 0xAA), se.keyvalid := true,
            ports.replies := s.ports.replies ++ [.done] })

/-- `SE.ENCRYPT` and `SE.DECRYPT` answer the same OFB of the operand under `ENCKEY`, with the sender nonce first in the IV,
and change nothing (42_cipher_core.md R171, R180, R181). -/
def Obligations.SeEncryptDecryptResults : Prop :=
  ∀ s data sn rn,
    let t := replied
      (if s.se.keyvalid = false then .error .noKey
       else if sn.length ≠ 8 ∨ rn.length ≠ 8 then .error .nonceLength
       else .bytes (ofb s.se.enckey (sn ++ rn) data)) s
    exec (.seEncrypt data sn rn) s = .next t ∧ exec (.seDecrypt data sn rn) s = .next t

/-- `SE.MAC` answers the MAC of the authentication data under `AUTHKEY`; `SE.VERIFY` answers whether the operand is that
MAC; neither changes anything (42_cipher_core.md R176, R177, R182, R183). -/
def Obligations.SeMacVerifyResults : Prop :=
  ∀ s sn rn cmd sender receiver ct mac,
    let checked (r : Reply) : Reply :=
      if s.se.keyvalid = false then .error .noKey
      else if sn.length ≠ 8 ∨ rn.length ≠ 8 then .error .nonceLength
      else if ct.length > 255 then .error .precondition
      else r
    let m := macFor s.se.authkey sn rn cmd sender receiver ct
    exec (.seMac sn rn cmd sender receiver ct) s = .next (replied (checked (.bytes m)) s) ∧
    exec (.seVerify sn rn cmd sender receiver ct mac) s =
      .next (replied (checked (.truth (decide (mac.length = 8 ∧ m = mac)))) s)

/-- Decrypting what was encrypted with the same nonces gives the plaintext back, byte for byte; verifying what `SE.MAC`
answered for equal operands gives true, and any other MAC gives false (42_cipher_core.md R183, R185). -/
def Obligations.CipherRoundTrip : Prop :=
  (∀ s p sn rn, s.se.keyvalid = true → s.se.enckey.length = 16 → sn.length = 8 → rn.length = 8 →
    ∃ t c u, exec (.seEncrypt p sn rn) s = .next t ∧ t.ports.replies = s.ports.replies ++ [.bytes c] ∧
      c.length = p.length ∧
      exec (.seDecrypt c sn rn) t = .next u ∧ u.ports.replies = t.ports.replies ++ [.bytes p]) ∧
  ∀ s sn rn cmd sender receiver ct, s.se.keyvalid = true → s.se.authkey.length = 16 → sn.length = 8 → rn.length = 8 →
    ct.length ≤ 255 →
    ∃ t m, exec (.seMac sn rn cmd sender receiver ct) s = .next t ∧ t.ports.replies = s.ports.replies ++ [.bytes m] ∧
      m.length = 8 ∧
      ∀ m', ∃ u, exec (.seVerify sn rn cmd sender receiver ct m') t = .next u ∧
        u.ports.replies = t.ports.replies ++ [.truth (decide (m' = m))]

/-- OFB: byte i of the output is byte i of the data under byte `i mod 16` of the keystream block `i div 16 + 1`, where block
0 is the IV and each block is the cipher of the one before; the output is as long as the data; OFB undoes itself
(42_cipher_core.md R170). -/
def Obligations.OfbKeystream : Prop :=
  ∀ key iv data : Bytes, key.length = 16 → iv.length = 16 →
    (ofb key iv data).length = data.length ∧
    (∀ i, i < data.length →
      (ofb key iv data)[i]? = some (data.getD i 0 ^^^ ((aesEnc key)^[i / 16 + 1] iv).getD (i % 16) 0)) ∧
    ofb key iv (ofb key iv data) = data

/-- CBC-MAC: the padding adds the fewest zeros that fill the last block; the first block is ciphered as it is, because the
chain starts at zero; each further whole block is added to the last chaining value and ciphered (42_cipher_core.md R174,
R175). -/
def Obligations.CbcMacChain : Prop :=
  (∀ d, ∃ n, n < 16 ∧ zeroPad d = d ++ List.replicate n 0 ∧ 16 ∣ (zeroPad d).length) ∧
  (∀ key d, cbcMacFull key d = cbcMacFull key (zeroPad d)) ∧
  (∀ key b : Bytes, b.length = 16 → cbcMacFull key b = aesEnc key b) ∧
  ∀ key d b : Bytes, d ≠ [] → 16 ∣ d.length → b.length = 16 →
    cbcMacFull key (d ++ b) = aesEnc key (xorBytes (cbcMacFull key d) b)

/-! ### Sealing and opening -/

/-- `SE.SEAL`: its checks in their order, then the nonce named by the operand is spent, or without a name the oldest that the
receiver issued for this node, eight random bytes are drawn, and the four parts are answered
(43_nonce_and_security_ops.md R210; 92_eei_decisions.md D42). That "for this node" of D42 is a test of the entry's receiver,
which the lines of R210 do not write out, is read by inference (log entry 19). -/
def Obligations.SeSealSpendsNonce : Prop :=
  ∀ s receiver cmd p nonceId,
    (s.se.keyvalid = false →
      exec (.seSeal receiver cmd p nonceId) s = .next (replied (.error .noKey) s)) ∧
    (s.se.keyvalid = true → s.se.ownid = none ∨ p.length > 255 →
      exec (.seSeal receiver cmd p nonceId) s = .next (replied (.error .precondition) s)) ∧
    ∀ own, s.se.keyvalid = true → s.se.ownid = some own → p.length ≤ 255 →
      let absent := match nonceId with
        | some i => ntFind { issuer := receiver, id := i } s.se.nt = none
        | none => ∀ x ∈ s.se.nt, ¬ issuedFor receiver own x
      (absent → exec (.seSeal receiver cmd p nonceId) s = .next (replied (.error .noNonce) s)) ∧
      (¬ absent → ∃ k e,
        (match nonceId with
          | some i => k = { issuer := receiver, id := i } ∧ ntFind k s.se.nt = some e
          | none => oldestFor receiver own s.se.nt (k, e)) ∧
        let ct := ofb s.se.enckey (nextRandom s ++ e.nonce) p
        exec (.seSeal receiver cmd p nonceId) s = .next (replied
          (.sealedParts (nextRandom s) ct k.id (macFor s.se.authkey (nextRandom s) e.nonce cmd own receiver ct))
          (spent k s)))

/-- `SE.OPEN`: its checks in their order; the nonce is spent before the MAC is looked at, so that a mismatch spends it too;
no plaintext is answered unless the MAC matched (43_nonce_and_security_ops.md R212). -/
def Obligations.SeOpenSpendsNonceChecksMac : Prop :=
  ∀ s sender cmd sn ct nonceId mac,
    exec (.seOpen sender cmd sn ct nonceId mac) s = .next
      (if s.se.keyvalid = false then replied (.error .noKey) s
       else match s.se.ownid with
         | none => replied (.error .precondition) s
         | some own =>
           if sn.length ≠ 8 then replied (.error .nonceLength) s
           else if mac.length ≠ 8 ∨ ct.length > 255 then replied (.error .payloadFormat) s
           else match ntFind { issuer := own, id := nonceId } s.se.nt with
             | none => replied (.error .nonceNotFound) s
             | some e =>
               if e.receiver ≠ sender then replied (.error .nonceNotFound) s
               else replied
                 (if macFor s.se.authkey sn e.nonce cmd sender own ct ≠ mac then .error .macMismatch
                  else .bytes (ofb s.se.enckey (sn ++ e.nonce) ct))
                 { s with se.nt := s.se.nt.filter (fun x => x.1 ≠ { issuer := own, id := nonceId }) })

/-- Two blocks that share a network key: B generates a nonce for A, A stores it, A seals with it, B opens what A sealed and
gets the plaintext (43_nonce_and_security_ops.md R214 (b)). Node `b` has an id left to give; A names the nonce, or has no
other that B issued for it. That without a name only such nonces of B could be taken for it is 92_eei_decisions.md D42 as the
model reads it, a test of the entry's receiver that the lines of R210 do not write (log entry 19). -/
def Obligations.SealOpenRoundTrip : Prop :=
  ∀ (sa sb : State) (a b : NodeId) (free : Bool) (cmd : Byte) (p : Bytes) (named : Bool),
    sa.se.keyvalid = true → sb.se.keyvalid = true → sa.se.authkey = sb.se.authkey → sa.se.enckey = sb.se.enckey →
    sa.se.authkey.length = 16 → sa.se.enckey.length = 16 → sa.se.ownid = some a → sb.se.ownid = some b →
    NtInv sb → (∃ x, ∀ e, ({ issuer := b, id := x }, e) ∉ sb.se.nt) → p.length ≤ 255 →
    (named = true ∨ ∀ x ∈ sa.se.nt, ¬ issuedFor b a x) →
    ∃ sb1 n sa1 sa2 sn ct id mac sb2,
      exec (.ntGenerate a) sb = .next sb1 ∧ sb1.ports.replies = sb.ports.replies ++ [.bytes n] ∧
      exec (.ntStore b n a free) sa = .next sa1 ∧
      exec (.seSeal b cmd p (if named then n.head? else none)) sa1 = .next sa2 ∧
      sa2.ports.replies = sa1.ports.replies ++ [.sealedParts sn ct id mac] ∧
      exec (.seOpen a cmd sn ct id mac) sb1 = .next sb2 ∧ sb2.ports.replies = sb1.ports.replies ++ [.bytes p]

/-- Single use: once `NT.TAKE`, `SE.SEAL` or `SE.OPEN` has answered with a nonce, it is no longer stored; and in every state
that does not store it, taking and releasing it, opening and sealing with it all fail (43_nonce_and_security_ops.md R214
(a)). -/
def Obligations.NonceSingleUse : Prop :=
  (∀ s k v t, exec (.ntTake k.issuer k.id) s = .next t → t.ports.replies = s.ports.replies ++ [.bytes v] →
    ntFind k t.se.nt = none) ∧
  (∀ s r cmd p o sn ct id mac t, exec (.seSeal r cmd p o) s = .next t →
    t.ports.replies = s.ports.replies ++ [.sealedParts sn ct id mac] → ntFind { issuer := r, id } t.se.nt = none) ∧
  (∀ s own sender cmd sn ct id mac v t, s.se.ownid = some own → exec (.seOpen sender cmd sn ct id mac) s = .next t →
    t.ports.replies = s.ports.replies ++ [.bytes v] ∨ t.ports.replies = s.ports.replies ++ [.error .macMismatch] →
    ntFind { issuer := own, id } t.se.nt = none) ∧
  ∀ s k, ntFind k s.se.nt = none →
    exec (.ntTake k.issuer k.id) s = .next (replied (.error .nonceNotFound) s) ∧
    exec (.ntRelease k.issuer k.id) s = .next (replied (.error .nonceNotFound) s) ∧
    (∀ cmd p own, s.se.keyvalid = true → s.se.ownid = some own → p.length ≤ 255 →
      exec (.seSeal k.issuer cmd p (some k.id)) s = .next (replied (.error .noNonce) s)) ∧
    ∀ sender cmd sn ct mac, s.se.keyvalid = true → s.se.ownid = some k.issuer → sn.length = 8 → mac.length = 8 →
      ct.length ≤ 255 → exec (.seOpen sender cmd sn ct k.id mac) s = .next (replied (.error .nonceNotFound) s)

/-- The life of a nonce: whatever is stored after an instruction was stored before it with the same nonce, receiver and
stamp, or has been stored by it under a stamp never used before (43_nonce_and_security_ops.md R199; 10_state.md R42). -/
def Obligations.NonceLifecycle : Prop :=
  ∀ i s t, FcInv s → exec i s = .next t → ∀ k e, ntFind k t.se.nt = some e →
    (∃ e', ntFind k s.se.nt = some e' ∧ e = { e' with free := e.free }) ∨ (e.created = s.seq ∧ t.seq = s.seq + 1)

/-! ### The nonce commands and the nonce timer -/

/-- `NT.GENERATE`: without a node id an error; with all 256 ids of this node in use an error; otherwise a nonce of eight
bytes whose first byte is no stored id of this node is stored reserved for the node, stamped, and answered
(43_nonce_and_security_ops.md R201). -/
def Obligations.NtGenerateStoresFreshNonce : Prop :=
  ∀ s forNode,
    (s.se.ownid = none → exec (.ntGenerate forNode) s = .next (replied (.error .precondition) s)) ∧
    ∀ own, s.se.ownid = some own → NtInv s →
      ((∀ x, ∃ e, ({ issuer := own, id := x }, e) ∈ s.se.nt) →
        exec (.ntGenerate forNode) s = .next (replied (.error .nonceTableFull) s)) ∧
      ((∃ x, ∀ e, ({ issuer := own, id := x }, e) ∉ s.se.nt) →
        ∃ t n, exec (.ntGenerate forNode) s = .next t ∧ n.length = 8 ∧
          (∀ e, ({ issuer := own, id := n.getD 0 0 }, e) ∉ s.se.nt) ∧
          (∀ k, ntFind k t.se.nt = if k = { issuer := own, id := n.getD 0 0 }
            then some { nonce := n, receiver := forNode, free := false, created := s.seq } else ntFind k s.se.nt) ∧
          t = { s with se.nt := t.se.nt, seq := s.seq + 1, ports.drawn := s.ports.drawn + 8,
                       ports.replies := s.ports.replies ++ [.bytes n] })

/-- `NT.STORE`: a nonce of another length is an error; otherwise the entry is stored under the issuer and the nonce's first
byte, in the place of any entry with that key, and stamped (43_nonce_and_security_ops.md R202). -/
def Obligations.NtStoreStoresNonce : Prop :=
  ∀ s issuer nonce receiver free,
    (nonce.length ≠ 8 →
      exec (.ntStore issuer nonce receiver free) s = .next (replied (.error .nonceLength) s)) ∧
    (nonce.length = 8 → ∃ t, exec (.ntStore issuer nonce receiver free) s = .next t ∧
      (∀ k, ntFind k t.se.nt = if k = { issuer, id := nonce.getD 0 0 }
        then some { nonce, receiver, free, created := s.seq } else ntFind k s.se.nt) ∧
      t = { s with se.nt := t.se.nt, seq := s.seq + 1, ports.replies := s.ports.replies ++ [.done] })

/-- `NT.FINDFREE`: none where the issuer has no free nonce; otherwise the oldest of them is answered and reserved in the
same step (43_nonce_and_security_ops.md R203). -/
def Obligations.NtFindfreeReservesOldest : Prop :=
  ∀ s issuer,
    ((∀ x ∈ s.se.nt, x.1.issuer = issuer → x.2.free = false) →
      exec (.ntFindfree issuer) s = .next (replied (.found none) s)) ∧
    ((∃ x ∈ s.se.nt, x.1.issuer = issuer ∧ x.2.free = true) →
      ∃ k e t, (k, e) ∈ s.se.nt ∧ k.issuer = issuer ∧ e.free = true ∧
        (∀ x ∈ s.se.nt, x.1.issuer = issuer → x.2.free = true → e.created ≤ x.2.created) ∧
        exec (.ntFindfree issuer) s = .next t ∧
        (∀ k', ntFind k' t.se.nt =
          if k' = k then (ntFind k s.se.nt).map (fun x => { x with free := false }) else ntFind k' s.se.nt) ∧
        t = { s with se.nt := t.se.nt, ports.replies := s.ports.replies ++ [.found (some (k.id, e.nonce))] })

/-- `NT.TAKE`: an absent nonce is an error; a stored one, free or reserved, is answered and deleted
(43_nonce_and_security_ops.md R204). -/
def Obligations.NtTakeDeletesNonce : Prop :=
  ∀ s issuer id,
    (ntFind { issuer, id } s.se.nt = none →
      exec (.ntTake issuer id) s = .next (replied (.error .nonceNotFound) s)) ∧
    ∀ e, ntFind { issuer, id } s.se.nt = some e → ∃ t, exec (.ntTake issuer id) s = .next t ∧
      (∀ k, ntFind k t.se.nt = if k = { issuer, id } then none else ntFind k s.se.nt) ∧
      t = { s with se.nt := t.se.nt, ports.replies := s.ports.replies ++ [.bytes e.nonce] }

/-- `NT.RELEASE`: an absent nonce is an error; a stored one becomes free, and one that is free already stays so
(43_nonce_and_security_ops.md R205). -/
def Obligations.NtReleaseFreesNonce : Prop :=
  ∀ s issuer id,
    (ntFind { issuer, id } s.se.nt = none →
      exec (.ntRelease issuer id) s = .next (replied (.error .nonceNotFound) s)) ∧
    ∀ e, ntFind { issuer, id } s.se.nt = some e → ∃ t, exec (.ntRelease issuer id) s = .next t ∧
      (∀ k, ntFind k t.se.nt = if k = { issuer, id } then some { e with free := true } else ntFind k s.se.nt) ∧
      t = { s with se.nt := t.se.nt, ports.replies := s.ports.replies ++ [.done] }

/-- `NT.EXPIRE`: not enabled for an absent nonce; a stored one is deleted, and no other register changes
(43_nonce_and_security_ops.md R206). -/
def Obligations.NtExpireDeletesNonce : Prop :=
  ∀ s issuer id,
    (ntFind { issuer, id } s.se.nt = none → exec (.ntExpire issuer id) s = .fault (.nonceNotStored { issuer, id })) ∧
    ∀ e, ntFind { issuer, id } s.se.nt = some e → ∃ t, exec (.ntExpire issuer id) s = .next t ∧
      (∀ k, ntFind k t.se.nt = if k = { issuer, id } then none else ntFind k s.se.nt) ∧
      t = { s with se.nt := t.se.nt }

/-! ### The link: bytes in and out -/

/-- `RX.BYTE` between steps: while the buffer with the new byte is an incomplete frame it is kept and the timer is armed;
otherwise exactly one symbol is complete, its instruction is run on the buffer with the new byte, the buffer is empty
after it, and the timer is off (40_frame_decode.md R111, R122). -/
def Obligations.RxByteRunsSymbols : Prop :=
  ∀ s b, FcInv s →
    match decodeLine (s.fc.rxbuf ++ [b]) with
    | .error _ => exec (.rxByte b) s = .next { s with fc.rxbuf := s.fc.rxbuf ++ [b], fc.rxtmr := true }
    | .ok i => ∃ t, exec i { s with fc.rxbuf := s.fc.rxbuf ++ [b] } = .next t ∧ t.fc.rxbuf = [] ∧
        exec (.rxByte b) s = .next { t with fc.rxtmr := false }

/-- What `RX.BYTE` transmits: ACK for a good Data frame and NAK for a bad one, before anything else; after it at most one
frame, the one TM has latched and whose acknowledgement it then awaits; nothing for any other symbol
(40_frame_decode.md R115, R127). -/
def Obligations.RxByteTransmits : Prop :=
  ∀ s b, FcInv s → ∃ t f, exec (.rxByte b) s = .next t ∧
    t.fc.txq = s.fc.txq ++ linkAnswer (tryParse (s.fc.rxbuf ++ [b])) ++ f ∧
    (f = [] ∨ (t.tm.txframe = some f ∧ t.tm.st = .execute ∧ t.tm.ph = .waitAck))

/-- `RX.TIMEOUT`: enabled only while the receive timer is armed; NAK is queued and the whole buffer is dropped
(40_frame_decode.md R124). -/
def Obligations.RxTimeoutDropsFrame : Prop :=
  ∀ s, (s.fc.rxtmr = true → exec .rxTimeout s = .next
      { s with fc := { rxbuf := [], rxtmr := false, txq := s.fc.txq ++ [0x15] } }) ∧
    (s.fc.rxtmr = false → exec .rxTimeout s = .fault .rxTimerNotArmed)

/-- `TX.EMIT`: enabled only when `TXQ` is not empty; its first byte goes out, and no other register changes
(41_frame_encode.md R144). -/
def Obligations.TxEmitSendsOldestByte : Prop :=
  ∀ s, (s.fc.txq = [] → exec .txEmit s = .fault .txqEmpty) ∧
    ∀ b rest, s.fc.txq = b :: rest →
      exec .txEmit s = .next { s with fc.txq := rest, ports.wire := s.ports.wire ++ [b] }

/-- `DATA (encode)`: a payload over 252 bytes is an error, any other gives the frame of `|payload| + 5` bytes; no register
changes (41_frame_encode.md R141). That the frame is answered as a result is the model's choice (log entry 11). -/
def Obligations.DataEncodeAnswersFrame : Prop :=
  ∀ s type funcId payload, exec (.dataEncode type funcId payload) s = .next
    (replied
      (if payload.length > 252 then .error .precondition
       else .bytes ([0x01, BitVec.ofNat 8 (payload.length + 3), type, funcId] ++ payload ++
         [0xFF ^^^ BitVec.ofNat 8 (payload.length + 3) ^^^ type ^^^ funcId ^^^ xorfold payload])) s)

/-- `SKIP` removes one byte and does nothing else (40_frame_decode.md R121). -/
def Obligations.SkipConsumesOneByte : Prop :=
  ∀ s b, exec (.skip b) s = .next { s with fc.rxbuf := s.fc.rxbuf.drop 1 }

/-- A Data frame with a length byte of 0, 1 or 2, or with a wrong checksum: the `len + 2` bytes it declares are removed, NAK
is queued, and nobody is told (40_frame_decode.md R118, R119). -/
def Obligations.BadFramesAnsweredNak : Prop :=
  ∀ s (len : Byte) body,
    let t : State := { s with fc.rxbuf := s.fc.rxbuf.drop (len.toNat + 2), fc.txq := s.fc.txq ++ [0x15] }
    exec (.dataBadlen len body) s = .next t ∧ exec (.dataCsfail len body) s = .next t

/-- A good Data frame of a reserved type: removed, acknowledged, dropped and logged; TM is not told (40_frame_decode.md
R120). -/
def Obligations.DataOtherAcksAndLogs : Prop :=
  ∀ s type funcId payload, exec (.dataOther type funcId payload) s = .next
    { s with fc.rxbuf := s.fc.rxbuf.drop (payload.length + 5), fc.txq := s.fc.txq ++ [0x06],
             ports.events := s.ports.events ++ [.logDrop type funcId payload] }

/-! ### The wire format -/

/-- Parsing what was serialized gives it back, with any bytes after the frame (40_frame_decode.md R126). -/
def Obligations.ParseSerialize : Prop :=
  ∀ type funcId payload rest, payload.length ≤ 252 →
    ∃ f, serialize type funcId payload = .ok f ∧
      tryParse (f ++ rest) =
        .frame (.data { type, funcId, payload, checksum := checksum type funcId payload }) (payload.length + 5)

/-- Serializing what was parsed from a whole buffer gives the buffer back (41_frame_encode.md R147). -/
def Obligations.SerializeParse : Prop :=
  ∀ f d, tryParse f = .frame (.data d) f.length → serialize d.type d.funcId d.payload = .ok f

/-- The last byte of every serialized frame is 0xFF folded over the bytes from the length byte through the last payload byte
(41_frame_encode.md R146). -/
def Obligations.ChecksumLaw : Prop :=
  ∀ type funcId payload f, serialize type funcId payload = .ok f →
    f.getLast? = some (0xFF ^^^ xorfold (slice f 1 (f.length - 2)))

/-- Bytes after the first symbol do not change what `TryParse` answers, and it takes at least one byte and no more than
there are (40_frame_decode.md R110, R111). -/
def Obligations.TryParseFirst : Prop :=
  ∀ buf more, tryParse buf ≠ .incomplete →
    tryParse (buf ++ more) = tryParse buf ∧ 1 ≤ lineLength buf ∧ lineLength buf ≤ buf.length

/-! ### Link events -/

/-- `ACK` (40_frame_decode.md R112; 44_transaction_fsm.md R254, R261, R263): ignored unless TM waits for it; with a reply
expected, TM waits for the reply; without one, `execute` ends, or the handshake ends and `EnterExecute` follows.
Which nonce `EnterExecute` spends is 92_eei_decisions.md D42 as the model reads it (log entry 19). -/
def Obligations.AckEndsOrAwaitsReply : Prop :=
  ∀ s, let s1 : State := { s with fc.rxbuf := s.fc.rxbuf.drop 1 }
    (s.tm.ph ≠ .waitAck → exec .ack s = .next s1) ∧
    (s.tm.ph = .waitAck → activeExpect s.tm ≠ none →
      exec .ack s = .next { s1 with tm.ph := .waitReply, tm.tmr := .resp }) ∧
    (∀ c, s.tm.ph = .waitAck → s.tm.st = .execute → s.tm.cur = some c → c.msg.expect = none →
      exec .ack s = .next (executed none c s1)) ∧
    ∀ c h, s.tm.ph = .waitAck → s.tm.st = .handshake → s.tm.cur = some c → c.hsMsg = some h → h.expect = none →
      ∃ t, exec .ack s = .next t ∧ entersExecute c (handshaken none c s1) t

/-- `NAK` and `CAN` (40_frame_decode.md R113, R114; 44_transaction_fsm.md R255, R256, R266): ignored unless TM waits for an
acknowledgement; then the attempt fails with the cause of each, under the retry policy. -/
def Obligations.NakCanFailTheAttempt : Prop :=
  ∀ s, let s1 : State := { s with fc.rxbuf := s.fc.rxbuf.drop 1 }
    (s.tm.ph ≠ .waitAck → exec .nak s = .next s1 ∧ exec .can s = .next s1) ∧
    ∀ c, s.tm.ph = .waitAck → s.tm.cur = some c →
      exec .nak s = .next (failedWith c (decide (s.tm.st = .handshake)) .linkNak s1) ∧
      exec .can s = .next (failedWith c (decide (s.tm.st = .handshake)) .linkCan s1)

/-! ### Received Messages -/

/-- `DATA.REQ` and `DATA.RES` while TM takes no Message: acknowledged, and the Message is unsolicited
(40_frame_decode.md R116, R117; 44_transaction_fsm.md R260). -/
def Obligations.MessageUnsolicited : Prop :=
  ∀ s response funcId payload,
    s.tm.st = .idle ∨ s.tm.st = .retryWait ∨ ((s.tm.st = .handshake ∨ s.tm.st = .execute) ∧ s.tm.ph ≠ .waitReply) →
    exec (messageInstr response funcId payload).1 s =
      .next (unsolicited (messageInstr response funcId payload).2 (acknowledged payload s))

/-- `DATA.REQ` and `DATA.RES` while TM waits for a reply: the predicate of the active message decides: the awaited reply ends
the handshake or `execute`; a confirmation changes nothing; a fatal one fails the attempt; any other is unsolicited
(44_transaction_fsm.md R260 to R263). Which nonce `EnterExecute` spends is 92_eei_decisions.md D42 as the model reads it (log
entry 19). -/
def Obligations.MessageInReply : Prop :=
  ∀ s response funcId payload c p, s.tm.ph = .waitReply → s.tm.cur = some c → activeExpect s.tm = some p →
    let m := (messageInstr response funcId payload).2
    let s1 := acknowledged payload s
    ∃ t, exec (messageInstr response funcId payload).1 s = .next t ∧
      match Config.host.expect p m with
      | .confirmation => t = s1
      | .unrelated => t = unsolicited m s1
      | .fatal => t = failedWith c (decide (s.tm.st = .handshake)) .fatalResponse s1
      | .final => (s.tm.st = .execute → t = executed (some m) c s1) ∧
                  (s.tm.st = .handshake → entersExecute c (handshaken (some m) c s1) t)

/-- `DATA.REQ` and `DATA.RES` while TM waits for an update: a Message that is the update ends the transaction with itself as
the result; any other is unsolicited (44_transaction_fsm.md R260, R264). -/
def Obligations.MessageInUpdate : Prop :=
  ∀ s response funcId payload c, s.tm.st = .waitForUpdate → s.tm.cur = some c →
    let m := (messageInstr response funcId payload).2
    exec (messageInstr response funcId payload).1 s = .next
      (if Config.host.isUpdate c m then settledWith c (.success (some m)) (acknowledged payload s)
       else unsolicited m (acknowledged payload s))

/-! ### The transaction machine -/

/-- `TM.TIMEOUT(ack)`, `(resp)`, `(upd)`: enabled only while `TMR` holds the kind; the attempt fails with the cause of each,
under the retry policy (44_transaction_fsm.md R257, R259, R265, R266). -/
def Obligations.TmTimeoutsFailTheAttempt : Prop :=
  ∀ s,
    (s.tm.tmr ≠ .ack → exec .tmTimeoutAck s = .fault (.timerNotArmed .ack)) ∧
    (s.tm.tmr ≠ .resp → exec .tmTimeoutResp s = .fault (.timerNotArmed .resp)) ∧
    (s.tm.tmr ≠ .upd → exec .tmTimeoutUpd s = .fault (.timerNotArmed .upd)) ∧
    ∀ c, s.tm.cur = some c →
      (s.tm.tmr = .ack →
        exec .tmTimeoutAck s = .next (failedWith c (decide (s.tm.st = .handshake)) .ackTimeout s)) ∧
      (s.tm.tmr = .resp →
        exec .tmTimeoutResp s = .next (failedWith c (decide (s.tm.st = .handshake)) .responseTimeout s)) ∧
      (s.tm.tmr = .upd →
        exec .tmTimeoutUpd s = .next (failedWith c (decide (s.tm.st = .handshake)) .updateTimeout s))

/-- `TM.TIMEOUT(retry)`: enabled only while `TMR` holds it; after a failed handshake the handshake message is sent anew,
otherwise `EnterExecute` follows, which sends a latched frame again unchanged (44_transaction_fsm.md R252, R253, R267).
Which nonce `EnterExecute` spends is 92_eei_decisions.md D42 as the model reads it (log entry 19). -/
def Obligations.TmTimeoutRetryStartsAgain : Prop :=
  ∀ s,
    (s.tm.tmr ≠ .retry → exec .tmTimeoutRetry s = .fault (.timerNotArmed .retry)) ∧
    ∀ c, s.tm.tmr = .retry → s.tm.cur = some c →
      (∀ h, s.tm.hsf = true → c.hsMsg = some h → h.payload.length ≤ 252 →
        exec .tmTimeoutRetry s = .next (attempting .handshake (frameOf h h.payload) s)) ∧
      (s.tm.hsf = false → ∃ t, exec .tmTimeoutRetry s = .next t ∧ entersExecute c s t)

/-- `TM.DISPATCH`: enabled only when TM is idle and ready and some queued transaction is eligible; an eligible one that no
other sorts before becomes current, and its handshake is started if it needs one, else `EnterExecute` follows
(44_transaction_fsm.md R251 to R253; 45_host_boundary.md R303). That a transaction without a handshake message needs none,
whatever the configuration says, is the model's choice (log entry 9). Which nonce `EnterExecute` spends is
92_eei_decisions.md D42 as the model reads it (log entry 19). -/
def Obligations.TmDispatchTakesLeast : Prop :=
  ∀ s,
    (s.tm.st ≠ .idle ∨ s.tm.life ≠ .ready ∨ (∀ x ∈ s.tm.q, ¬ awake s.pins x) →
      exec .tmDispatch s = .fault .dispatchNotEnabled) ∧
    (s.tm.st = .idle → s.tm.life = .ready → (∃ x ∈ s.tm.q, awake s.pins x) →
      ∃ c t, c ∈ s.tm.q ∧ awake s.pins c ∧ (∀ x ∈ s.tm.q, awake s.pins x → sortsBefore s.pins x c = false) ∧
        exec .tmDispatch s = .next t ∧
        (needHS Config.host c s.se.nt = true → ∃ h, c.hsMsg = some h ∧
          (h.payload.length ≤ 252 → t = attempting .handshake (frameOf h h.payload) (taken c s))) ∧
        (needHS Config.host c s.se.nt = false → entersExecute c (taken c s) t))

/-- `TM.ADD`: its checks in their order; otherwise the record is stamped, unsettled and without failed attempts, and added to
the queue; nothing is transmitted (44_transaction_fsm.md R248). A record without `maxAttempts` has 3 (10_state.md R36). -/
def Obligations.TmAddQueuesPending : Prop :=
  ∀ s (t0 : TxnSpec), ∃ q,
    q.Perm ({ id := t0.id, msg := t0.msg, hsMsg := t0.hsMsg, node := t0.node, priority := t0.priority, created := s.seq,
              attempts := 0, maxAttempts := t0.maxAttempts.getD 3, expectsUpdate := t0.expectsUpdate,
              secure := t0.secure, secCmd := t0.secCmd, secPlain := t0.secPlain, isPing := t0.isPing,
              outcome := .pending, partialReports := t0.partialReports } :: s.tm.q) ∧
    exec (.tmAdd t0) s = .next
      (if s.tm.life = .destroyed then replied (.error .notReady) s
       else if t0.maxAttempts = some 0 ∨ t0.msg.payload.length > 252 ∨
           (∃ h ∈ t0.hsMsg, h.payload.length > 252) ∨ t0.id ∈ unsettledIds s.tm then replied (.error .precondition) s
       else if t0.secure = true ∧ s.se.keyvalid = false then replied (.error .noKey) s
       else { s with tm.q := q, seq := s.seq + 1, ports.replies := s.ports.replies ++ [.done] })

/-- `TM.REJECT`: every queued transaction that satisfies the predicate leaves the queue, settled and reported in `Compare`
order, then the current one if it does; their number is answered; what is in `TXQ` stays (44_transaction_fsm.md R268, R272).
-/
def Obligations.TmRejectSettlesMatching : Prop :=
  ∀ s p reason, ∃ l, comparedList s.pins (s.tm.q.filter (rejects p)) l ∧
    exec (.tmReject p reason) s = .next
      { s with
        tm := { (if (s.tm.cur.filter (rejects p)).isSome then idleRegs s.tm else s.tm) with
                q := s.tm.q.filter (fun t => !rejects p t) },
        ports.events := s.ports.events ++
          (l ++ (s.tm.cur.filter (rejects p)).toList).map (fun t => Event.txnDone t.id (.failure reason none)),
        ports.replies := s.ports.replies ++ [.count (l.length + (s.tm.cur.filter (rejects p)).toList.length)] }

/-- `TM.NODE_ASLEEP`: every transaction of the node that is no handshake is touched: a ping is settled with `ERR_DROPPED`,
any other gets the wake-up priority, and the current one goes back to the queue unsettled, TM idle after it
(44_transaction_fsm.md R274). The order of the reports of several queued pings is free (log entry 13). -/
def Obligations.TmNodeAsleepRetagsOrDrops : Prop :=
  ∀ s n, ∃ (l : List Txn) (q : List Txn),
    l.Perm (s.tm.q.filter (fun t => touchedBySleep n t && t.isPing)) ∧
    let kept := (s.tm.q.filter (fun t => !(touchedBySleep n t && t.isPing))).map
      (fun t => if touchedBySleep n t then { t with priority := 5 } else t)
    let touched := s.tm.cur.filter (touchedBySleep n)
    (q.Perm ((touched.filter (fun c => !c.isPing)).toList.map (fun c => { c with priority := 5 }) ++ kept)) ∧
    exec (.tmNodeAsleep n) s = .next
      { s with
        tm := { (if touched.isSome then idleRegs s.tm else s.tm) with q },
        ports.events := s.ports.events ++
          (l ++ (touched.filter (fun c => c.isPing)).toList).map (fun t => Event.txnDone t.id (.failure .dropped none)),
        ports.choices := s.ports.choices + 1,
        ports.replies := s.ports.replies ++ [.done] }

/-- `Compare` is the lexicographic order of (priority, rank, created), where the rank is 0 for a node-query transaction whose
node is listening and 1 for any other; it is a strict order, total on transactions with different stamps
(45_host_boundary.md R302). -/
def Obligations.CompareOrder : Prop :=
  (∀ (p : HostPins) (a b : Txn),
    let rank (t : Txn) : Nat := if t.priority = 3 ∧ t.node.any (fun n => p.listening.contains n) then 0 else 1
    (sortsBefore p a b = true ↔ a.priority < b.priority ∨ (a.priority = b.priority ∧
      (rank a < rank b ∨ (rank a = rank b ∧ a.created < b.created))))) ∧
  (∀ p a, sortsBefore p a a = false) ∧
  (∀ p a b c, sortsBefore p a b = true → sortsBefore p b c = true → sortsBefore p a c = true) ∧
  ∀ p (a b : Txn), a.created ≠ b.created → sortsBefore p a b = !sortsBefore p b a

/-- `NeedHS` by its default definition: a secure transaction with a handshake message and a node of which no free nonce is
stored (44_transaction_fsm.md R250; 43_nonce_and_security_ops.md R208). -/
def Obligations.NeedHandshakeDefault : Prop :=
  ∀ (cfg : Config) (t : Txn) (nt : NonceTable), cfg.needHS = none →
    (needHS cfg t nt = true ↔ t.secure = true ∧ t.hsMsg ≠ none ∧
      ∃ n, t.node = some n ∧ ∀ x ∈ nt, x.1.issuer = n → x.2.free = false)

/-! ### Invariants that every step keeps -/

/-- Every step keeps the receive buffer empty or an incomplete frame, and its timer armed exactly in the latter case
(10_state.md R21, R23). -/
def Obligations.StepKeepsFcInv : Prop := ∀ s t, FcInv s → step s = .next t → FcInv t

/-- Every step keeps the key registers 16 bytes wide and the nonce table in order: no two entries with one key or one stamp,
every nonce of 8 bytes and keyed by its first (10_state.md R31, R33, R42). -/
def Obligations.StepKeepsSeInv : Prop :=
  ∀ s t, KeyInv s ∧ NtInv s → step s = .next t → KeyInv t ∧ NtInv t

/-- Every step keeps the invariants of the transaction machine (44_transaction_fsm.md R242; 10_state.md R36, R38 to R40). -/
def Obligations.StepKeepsTmInv : Prop := ∀ s t, TmInv s → step s = .next t → TmInv t

/-! ### Rules of the whole machine -/

/-- While `KEYVALID` is 0 nothing depends on the key registers: two states that differ in nothing else take the same
outcome, and their next states differ in nothing else (10_state.md R31). So no run can tell what value the model gave them
at reset (log entry 12). -/
def Obligations.KeysUnreadBeforeLoad : Prop :=
  ∀ i s s', s.se.keyvalid = false → keyless s = keyless s' →
    (∀ t, exec i s = .next t → ∃ t', exec i s' = .next t' ∧ keyless t = keyless t') ∧
    (∀ f, exec i s = .fault f → exec i s' = .fault f) ∧ ∀ r, exec i s = .refused r → exec i s' = .refused r

/-- The four key registers are written by `SE.SETKEY` only, and only while no key is loaded, and by `SYS.RESET`
(10_state.md R31, R53). -/
def Obligations.KeysWrittenOnce : Prop :=
  ∀ i s t, exec i s = .next t →
    (t.se.netkey = s.se.netkey ∧ t.se.authkey = s.se.authkey ∧ t.se.enckey = s.se.enckey ∧ t.se.keyvalid = s.se.keyvalid) ∨
    i = .sysReset ∨ ∃ key, i = .seSetkey key ∧ key.length = 16 ∧ s.se.keyvalid = false

/-- Nothing that went out is taken back: bytes leave `TXQ` by `TX.EMIT` and by reset only; events, replies and the bytes on
the line are only ever added to, and only `TX.EMIT` puts a byte on the line (10_state.md R22; 60_exceptions.md R350). -/
def Obligations.OutputOnlyGrows : Prop :=
  ∀ i s t, exec i s = .next t →
    (i ≠ .txEmit → i ≠ .sysReset → s.fc.txq <+: t.fc.txq) ∧
    s.ports.events <+: t.ports.events ∧ s.ports.replies <+: t.ports.replies ∧
    s.ports.wire <+: t.ports.wire ∧ (i ≠ .txEmit → t.ports.wire = s.ports.wire)

/-- No transaction is lost and none is settled twice: the ids unsettled after an instruction and the ids it reports as
settled are together the ids unsettled before it, and the id `TM.ADD` adds (44_transaction_fsm.md R270, R279 (c)). -/
def Obligations.TransactionsConserved : Prop :=
  ∀ i s t, TmInv s → exec i s = .next t → ∃ l, t.ports.events = s.ports.events ++ l ∧
    ((unsettledIds t.tm ++ doneIds l).Perm (unsettledIds s.tm) ∨
     ∃ t0, i = .tmAdd t0 ∧ l = [] ∧ (unsettledIds t.tm).Perm (t0.id :: unsettledIds s.tm))

/-- An instruction is stuck exactly where the spec says that its step is not enabled, and none is ever refused
(00_scope.md R15; 93_implementation_defined.md U18). -/
def Obligations.StuckExactlyWhenNotEnabled : Prop :=
  ∀ i s, (∀ r, exec i s ≠ .refused r) ∧
    ((∃ f, exec i s = .fault f) ↔
      (i = .txEmit ∧ s.fc.txq = []) ∨
      (i = .tmDispatch ∧ (s.tm.st ≠ .idle ∨ s.tm.life ≠ .ready ∨ ∀ x ∈ s.tm.q, ¬ awake s.pins x)) ∨
      (i = .tmTimeoutAck ∧ s.tm.tmr ≠ .ack) ∨ (i = .tmTimeoutResp ∧ s.tm.tmr ≠ .resp) ∨
      (i = .tmTimeoutUpd ∧ s.tm.tmr ≠ .upd) ∨ (i = .tmTimeoutRetry ∧ s.tm.tmr ≠ .retry) ∨
      (i = .rxTimeout ∧ s.fc.rxtmr = false) ∨
      ∃ issuer id, i = .ntExpire issuer id ∧ ntFind { issuer, id } s.se.nt = none)

/-- Every host command returns one result in the same step; when the result is an error nothing else has changed, but that
`SE.OPEN` with a MAC mismatch has spent the nonce (00_scope.md R10; 60_exceptions.md R352). -/
def Obligations.CommandsAnswer : Prop :=
  ∀ i s, isHostCommand i = true → ∃ t r, exec i s = .next t ∧ t.ports.replies = s.ports.replies ++ [r] ∧
    ∀ e, r = .error e →
      t = replied (.error e) s ∨
      (e = .macMismatch ∧ ∃ sender cmd sn ct id mac own, i = .seOpen sender cmd sn ct id mac ∧ s.se.ownid = some own ∧
        t = replied (.error e) { s with se.nt := s.se.nt.filter (fun x => x.1 ≠ { issuer := own, id }) })

/-! ### Decoding and stepping -/

/-- A step runs the decoded instruction: a symbol that stands whole at the front of the buffer, the receive timer set after
it; else the move of the agent whose turn it is, taken off the schedule. A command whose
code is not in the table is answered `ERR_PRECONDITION` and changes nothing else (30_encoding.md R92); that a missing code,
and operand bytes that are too few, too many or no value, are answered the same is the model's choice (DESIGN CHOICE, log
entry 5). A change of the host predicates is taken over; with nothing to do the block waits. The order of these (a symbol
first) and the schedule are the model's choice (log entries 1, 3). Nothing is said here of bytes on the `tmr` port that are no
timer event, which the model refuses (log entry 2). -/
def Obligations.StepRunsDecoded : Prop :=
  (∀ s i, decodeLine s.fc.rxbuf = .ok i → step s =
    match exec i s with
    | .next t => .next { t with fc.rxtmr := !t.fc.rxbuf.isEmpty }
    | .fault f => .fault f
    | .refused r => .refused r) ∧
  (∀ s e m i rest, decodeLine s.fc.rxbuf = .error e → s.sched = .move m :: rest → decodeMove m = .ok i →
    step s = exec i { s with sched := rest }) ∧
  (∀ s e w e' rest, decodeLine s.fc.rxbuf = .error e → s.sched = .move (.cmd w) :: rest → decodeCmd w = .error e' →
    step s = .next (replied (.error .precondition) { s with sched := rest })) ∧
  (∀ s e p rest, decodeLine s.fc.rxbuf = .error e → s.sched = .pins p :: rest →
    step s = .next { s with pins := p, sched := rest }) ∧
  ∀ s e, decodeLine s.fc.rxbuf = .error e → s.sched = [] → step s = .next s

/-- A few words written out from the tables of 30_encoding.md (R80, R82, R92, R93) decode to what they stand for: the control
bytes, the frames of the examples of R116, R117, R118, R120 of 40_frame_decode.md, a skipped byte, two commands, two timer
events, and a code that is no command. The codes are those of R92 and R93; how the operand bytes of the two
commands and of the nonce expiry follow the code is the model's own layout (DESIGN CHOICE, log entry 5). -/
def Obligations.KnownWordsDecode : Prop :=
  decodeLine [0x06] = .ok .ack ∧ decodeLine [0x15] = .ok .nak ∧ decodeLine [0x18] = .ok .can ∧
  decodeLine [0x01, 0x05, 0x00, 0x13, 0x2A, 0x00, 0xC3] = .ok (.dataReq 0x13 [0x2A, 0x00]) ∧
  decodeLine [0x01, 0x04, 0x01, 0x13, 0x01, 0xE8] = .ok (.dataRes 0x13 [0x01]) ∧
  decodeLine [0x01, 0x03, 0x02, 0x15, 0xEB] = .ok (.dataOther 0x02 0x15 []) ∧
  decodeLine [0x01, 0x03, 0x00, 0x15, 0xE8] = .ok (.dataCsfail 0x03 [0x00, 0x15, 0xE8]) ∧
  decodeLine [0xFF] = .ok (.skip 0xFF) ∧
  decodeCmd [0x02, 0x01] = .ok (.sysSetid 0x01) ∧ decodeCmd [0x24, 0x05, 0x11] = .ok (.ntTake 0x05 0x11) ∧
  decodeTmr [0x03] = .ok .tmTimeoutUpd ∧ decodeTmr [0x20, 0x05, 0x11] = .ok (.ntExpire 0x05 0x11) ∧
  decodeCmd [0x7F] = .error (.unknownCommand 0x7F)

/-- Decode and encode agree: every instruction its encoding can carry, with every operand at every value, is what its
encoding decodes to (30_encoding.md R80 to R94). The operand bytes of host commands and of a nonce expiry are the model's own (log
entry 5). -/
def Obligations.DecodeEncode : Prop := ∀ i, i.wf = true → decode (encode i) = .ok i

end
end

