-- ==== Sys2Proof/Laws/Wire.lean ====
section
/-! SUPPORT. The wire format: the exclusive or of a sequence, when `tryParse` waits, and how much it takes. -/

namespace Sys2Proof.Machine

@[simp] theorem xorfold_nil : xorfold [] = 0 := rfl

@[simp] theorem xorfold_cons (b : Byte) (s : Bytes) : xorfold (b :: s) = b ^^^ xorfold s := rfl

theorem xorfold_append (a b : Bytes) : xorfold (a ++ b) = xorfold a ^^^ xorfold b := by
  induction a with
  | nil => simp
  | cons x rest ih => simp [ih, BitVec.xor_assoc]

theorem toByte_toNat {n : Nat} (h : n < 256) : (toByte n).toNat = n := by
  simp [toByte, Nat.mod_eq_of_lt h]

theorem frameBytes_length (t f : Byte) (p : Bytes) : (frameBytes t f p).length = p.length + 5 := by
  simp [frameBytes]

theorem parseData_ne_incomplete (buf : Bytes) (len : Nat) : parseData buf len ≠ .incomplete := by
  unfold parseData
  split
  · simp
  · split <;> simp

/-- `tryParse` on a buffer that starts with a start marker. -/
theorem tryParse_sof (len : Byte) (rest : Bytes) :
    tryParse (sofByte :: len :: rest) =
      if rest.length < len.toNat then .incomplete else parseData (sofByte :: len :: rest) len.toNat := by
  have h1 : sofByte ≠ ackByte := by decide
  have h2 : sofByte ≠ nakByte := by decide
  have h3 : sofByte ≠ canByte := by decide
  simp only [tryParse, if_neg h1, if_neg h2, if_neg h3, ne_eq, not_true_eq_false, if_false, List.length_cons]
  by_cases h : rest.length < len.toNat
  · rw [if_pos h, if_pos (by omega)]
  · rw [if_neg h, if_neg (by omega)]

/-- A byte that is no start marker is a symbol of one byte (30_encoding.md R89). -/
theorem tryParse_control {b : Byte} (rest : Bytes) (h : b ≠ sofByte) :
    tryParse (b :: rest) ≠ .incomplete ∧ lineLength (b :: rest) = 1 := by
  have hp : tryParse (b :: rest) = .frame .ack 1 ∨ tryParse (b :: rest) = .frame .nak 1 ∨
      tryParse (b :: rest) = .frame .can 1 ∨ tryParse (b :: rest) = .skip 1 := by
    simp only [tryParse]
    by_cases h1 : b = ackByte
    · simp [h1]
    · by_cases h2 : b = nakByte
      · subst h2; simp [h1]
      · by_cases h3 : b = canByte
        · subst h3; simp [h1, h2]
        · simp [h1, h2, h3, h]
  rcases hp with hp | hp | hp | hp <;> simp [hp, lineLength]

/-- The decoder waits exactly on an empty buffer and on an incomplete Data frame (40_frame_decode.md R122). -/
theorem tryParse_incomplete_iff (buf : Bytes) : tryParse buf = .incomplete ↔ waitingFrame buf := by
  match buf with
  | [] => simp [tryParse, waitingFrame]
  | b :: rest =>
    by_cases h : b = sofByte
    · subst h
      match rest with
      | [] =>
        have : tryParse [sofByte] = .incomplete := by decide
        simp [this, waitingFrame]
      | len :: rest =>
        rw [tryParse_sof]
        have hw : waitingFrame (sofByte :: len :: rest) ↔ rest.length < len.toNat := by
          simp only [waitingFrame, List.head?_cons, true_and, List.length_cons, List.getD_eq_getElem?_getD,
            List.getElem?_cons_succ, List.getElem?_cons_zero, Option.getD_some, List.cons_ne_nil, false_or]
          omega
        rw [hw]
        split
        · next h' => simp [h']
        · next h' => simp [h', parseData_ne_incomplete]
    · have hw : ¬ waitingFrame (b :: rest) := by simp [waitingFrame, h]
      simp [hw, (tryParse_control rest h).1]

/-- `decodeLine` answers exactly where `tryParse` finds a symbol. -/
theorem decodeLine_isOk_iff (buf : Bytes) : (∃ i, decodeLine buf = .ok i) ↔ tryParse buf ≠ .incomplete := by
  unfold decodeLine
  split <;> simp_all

/-- A whole Data frame takes the bytes its length byte declares and two more (30_encoding.md R83). -/
theorem lineLength_sof {len : Byte} {rest : Bytes} (h : len.toNat ≤ rest.length) :
    lineLength (sofByte :: len :: rest) = len.toNat + 2 := by
  rw [lineLength, tryParse_sof, if_neg (by omega), parseData]
  split
  · next h0 => split at h0 <;> [simp at h0; split at h0 <;> simp at h0]
  · next h0 => split at h0 <;> [simp at h0; split at h0 <;> simp at h0]
  · next h0 => split at h0 <;> [simp at h0; split at h0 <;> simp_all]
  · next h0 => split at h0 <;> [simp_all; split at h0 <;> simp_all]

/-- Every symbol takes at least one byte and no more than the buffer holds (40_frame_decode.md R111). -/
theorem lineLength_bounds {buf : Bytes} (h : tryParse buf ≠ .incomplete) :
    1 ≤ lineLength buf ∧ lineLength buf ≤ buf.length := by
  match buf with
  | [] => simp [tryParse] at h
  | b :: rest =>
    by_cases hb : b = sofByte
    · subst hb
      match rest with
      | [] => exact absurd (by decide) h
      | len :: rest =>
        rw [tryParse_sof] at h
        split at h
        · exact absurd rfl h
        · next hl => rw [lineLength_sof (by omega)]; simp only [List.length_cons]; omega
    · rw [(tryParse_control rest hb).2]; simp

end Sys2Proof.Machine
end

