-- ==== Sys2Proof/Laws/Cipher.lean ====
section
/-! SUPPORT. Lengths through the cipher core, and the one-step equations of its recursions (spec/42_cipher_core.md R160 to
R175). Cite these: a proof that unfolds `aesEnc` evaluates the cipher. -/

namespace Sys2Proof.Machine

theorem xorBytes_length (a b : Bytes) : (xorBytes a b).length = min a.length b.length := by simp [xorBytes]

/-- Exclusive or with one sequence twice gives the first back. -/
theorem xorBytes_cancel (a b : Bytes) (h : a.length ≤ b.length) : xorBytes (xorBytes a b) b = a := by
  induction a generalizing b with
  | nil => simp [xorBytes]
  | cons x xs ih =>
    cases b with
    | nil => simp at h
    | cons y ys =>
      simp only [xorBytes, List.zipWith_cons_cons, List.cons.injEq] at ih ⊢
      exact ⟨by rw [BitVec.xor_assoc, BitVec.xor_self, BitVec.xor_zero], ih ys (by simpa using h)⟩

/-- The key schedule: `n + 4` words of 4 bytes (42_cipher_core.md R167). -/
theorem keyWords_spec (key : Bytes) (h : key.length = 16) (n : Nat) : (keyWords key n).length = n + 4 ∧ ∀ w ∈ keyWords key n, w.length = 4 := by
  induction n with
  | zero =>
    refine ⟨rfl, fun w hw => ?_⟩
    simp only [keyWords, List.mem_cons, List.not_mem_nil, or_false] at hw
    rcases hw with rfl | rfl | rfl | rfl <;> simp [slice, h]
  | succ n ih =>
    obtain ⟨ih1, ih2⟩ := ih
    have hget (i : Nat) (hi : i < n + 4) : ((keyWords key n).getD i []).length = 4 := by
      rw [List.getD_eq_getElem?_getD, List.getElem?_eq_getElem (by omega), Option.getD_some]
      exact ih2 _ (List.getElem_mem _)
    have hs : (scheduleWord (keyWords key n) (n + 4)).length = 4 := by
      unfold scheduleWord
      have := hget (n + 4 - 1) (by omega)
      dsimp only
      split
      · simp only [xorBytes_length, subBytes, rotWord, List.length_map, List.length_append, List.length_drop, List.length_take, this]; rfl
      · exact this
    refine ⟨by simp [keyWords, ih1], fun w hw => ?_⟩
    simp only [keyWords, List.mem_append, List.mem_singleton] at hw
    rcases hw with hw | hw
    · exact ih2 w hw
    · rw [hw, xorBytes_length, hget n (by omega), hs]; rfl

theorem flatten_four (l : List Bytes) (h : ∀ w ∈ l, w.length = 4) : l.flatten.length = 4 * l.length := by
  induction l with
  | nil => rfl
  | cons x xs ih =>
    simp only [List.flatten_cons, List.length_append, List.length_cons]
    rw [ih fun w hw => h w (List.mem_cons_of_mem _ hw), h x (List.mem_cons_self ..)]; ring

/-- A round key is 16 bytes. -/
theorem roundKey_length (key : Bytes) (h : key.length = 16) (r : Nat) (hr : r ≤ 10) : (roundKey (keyWords key 40) r).length = 16 := by
  have hk := keyWords_spec key h 40
  unfold roundKey
  rw [flatten_four]
  · simp only [List.length_take, List.length_drop, hk.1]; omega
  · intro w hw; exact hk.2 w (List.mem_of_mem_drop (List.mem_of_mem_take hw))

/-- The cipher answers one block, whatever it is given (42_cipher_core.md R160). -/
theorem aesEnc_length (key b : Bytes) (h : key.length = 16) : (aesEnc key b).length = 16 := by
  unfold aesEnc addRoundKey
  simp only [xorBytes_length, shiftRows, List.length_map, roundKey_length key h 10 (by omega)]
  rfl

theorem ofbStream_length (key o : Bytes) (h : key.length = 16) (k : Nat) : (ofbStream key o k).length = 16 * k := by
  induction k generalizing o with
  | zero => rfl
  | succ k ih => simp only [ofbStream, List.length_append, ih, aesEnc_length key o h]; ring

/-- OFB keeps the length (42_cipher_core.md R170). -/
theorem ofb_length (key iv data : Bytes) (h : key.length = 16) : (ofb key iv data).length = data.length := by
  simp only [ofb, xorBytes_length, ofbStream_length key iv h]; omega

theorem zeroPad_len (d : Bytes) : (zeroPad d).length = d.length + (16 - d.length % 16) % 16 := by simp [zeroPad]

/-- Whole blocks are not padded (42_cipher_core.md R174). -/
theorem zeroPad_of_dvd (d : Bytes) (h : 16 ∣ d.length) : zeroPad d = d := by
  have : (16 - d.length % 16) % 16 = 0 := by omega
  simp [zeroPad, this]

/-- One step of the chain. -/
theorem cbcChain_succ (key x p : Bytes) (k : Nat) :
    cbcChain key x p (k + 1) = cbcChain key (aesEnc key (xorBytes x (p.take 16))) (p.drop 16) k := by rw [cbcChain]

/-- One block of the keystream. -/
theorem ofbStream_succ (key o : Bytes) (k : Nat) :
    ofbStream key o (k + 1) = aesEnc key o ++ ofbStream key (aesEnc key o) k := by rw [ofbStream]

end Sys2Proof.Machine
end

