-- ==== Sys2Proof/Laws/Codec.lean ====
section
/-! SUPPORT. Each operand reader reads back what its writer wrote (the model's own operand bytes, log entry 5). -/

namespace Sys2Proof.Machine

theorem readNat_put (n : Nat) (w : Bytes) : readNat (putNat n ++ w) = some (n, w) := by
  have key : ∀ k r, r < 255 → readNat (List.replicate k 0xFF ++ [toByte r] ++ w) = some (k * 255 + r, w) := by
    intro k r hr
    induction k with
    | zero =>
      have : ¬ toByte r = 0xFF := by
        intro h
        have := congrArg BitVec.toNat h
        rw [toByte_toNat (by omega)] at this
        simp at this; omega
      simp only [List.replicate_zero, List.nil_append, List.cons_append, readNat, if_neg this, toByte_toNat (show r < 256 by omega)]
      simp
    | succ k ih =>
      simp only [List.replicate_succ, List.cons_append, readNat, if_true]
      rw [ih]
      simp; ring
  unfold putNat
  rw [key _ _ (by omega)]
  congr 2; omega

theorem readBytes_put (b w : Bytes) : readBytes (putBytes b ++ w) = some (b, w) := by
  simp [readBytes, readThen, putBytes, List.append_assoc, readNat_put]

theorem readBool_put (b : Bool) (w : Bytes) : readBool (putBool b ++ w) = some (b, w) := by
  cases b <;> simp [readBool, putBool, readThen, readByte]

theorem readOption_put {α : Type} {p : Reader α} {put : α → Bytes} (h : ∀ a w, p (put a ++ w) = some (a, w)) (o : Option α) (w : Bytes) :
    readOption p (putOption put o ++ w) = some (o, w) := by
  cases o <;> simp [readOption, putOption, readBool, readThen, readByte, readDone, h]

theorem readMany_put {α : Type} {p : Reader α} {put : α → Bytes} (h : ∀ a w, p (put a ++ w) = some (a, w)) (l : List α) (w : Bytes) :
    readMany p l.length (l.flatMap put ++ w) = some (l, w) := by
  induction l with
  | nil => rfl
  | cons x xs ih => simp [readMany, readThen, readDone, List.append_assoc, h, ih]

theorem readList_put {α : Type} {p : Reader α} {put : α → Bytes} (h : ∀ a w, p (put a ++ w) = some (a, w)) (l : List α) (w : Bytes) :
    readList p (putList put l ++ w) = some (l, w) := by
  simp [readList, putList, readThen, List.append_assoc, readNat_put, readMany_put h]

theorem readByte_put (b : Byte) (w : Bytes) : readByte ([b] ++ w) = some (b, w) := rfl

theorem readMessage_put (m : Message) (w : Bytes) : readMessage (putMessage m ++ w) = some (m, w) := by
  have := readOption_put readNat_put m.expect w
  simp [readMessage, putMessage, readThen, readByte, readBytes_put, List.append_assoc, this, readDone]

theorem readTxnSpec_put (t : TxnSpec) (w : Bytes) : readTxnSpec (putTxnSpec t ++ w) = some (t, w) := by
  have h1 (w) := readOption_put readMessage_put t.hsMsg w
  have h2 (w) := readOption_put (p := readByte) (put := fun n => [n]) readByte_put t.node w
  have h3 (w) := readOption_put readNat_put t.maxAttempts w
  have h4 (w) := readList_put readMessage_put t.partialReports w
  have hb (b : Byte) (w) : readByte (b :: w) = some (b, w) := rfl
  simp only [readTxnSpec, putTxnSpec, readThen, List.append_assoc, readNat_put, readMessage_put, h1, h2, h3, readBool_put,
    List.cons_append, List.nil_append, hb, readBytes_put, h4, readDone]

theorem readPred_put (p : TxnPred) (w : Bytes) : readPred (putPred p ++ w) = some (p, w) := by
  cases p <;> simp [readPred, putPred, readThen, readByte, readDone, readNat_put]

theorem errOfByte_errByte (e : ErrCode) : errOfByte (errByte e) = some e := by cases e <;> decide

theorem readReason_put (e : ErrCode) (w : Bytes) : readReason (errByte e :: w) = some (e, w) := by
  simp [readReason, readThen, readByte, errOfByte_errByte]

theorem decodeCmd_of {code : Byte} {p : Reader Instr} {w : Bytes} {i : Instr} (h : commandReader code = some p) (hp : p w = some (i, [])) :
    decodeCmd (code :: w) = .ok i := by
  simp only [decodeCmd, h, hp]

end Sys2Proof.Machine
end

