-- ==== Sys2Proof/Laws/State.lean ====
section
/-! SUPPORT. What each operation that only writes registers leaves in every part of the state: one lemma per part, true by
unfolding, so that no later proof unfolds a record update. A part the operation does not write is named by its group. -/

namespace Sys2Proof.Machine

@[simp] theorem consume_rxbuf (n : Nat) (s : State) : (consume n s).fc.rxbuf = s.fc.rxbuf.drop n := rfl
@[simp] theorem consume_rxtmr (n : Nat) (s : State) : (consume n s).fc.rxtmr = s.fc.rxtmr := rfl
@[simp] theorem consume_txq (n : Nat) (s : State) : (consume n s).fc.txq = s.fc.txq := rfl
@[simp] theorem consume_se (n : Nat) (s : State) : (consume n s).se = s.se := rfl
@[simp] theorem consume_tm (n : Nat) (s : State) : (consume n s).tm = s.tm := rfl
@[simp] theorem consume_ports (n : Nat) (s : State) : (consume n s).ports = s.ports := rfl
@[simp] theorem consume_seq (n : Nat) (s : State) : (consume n s).seq = s.seq := rfl
@[simp] theorem consume_pins (n : Nat) (s : State) : (consume n s).pins = s.pins := rfl
@[simp] theorem consume_sched (n : Nat) (s : State) : (consume n s).sched = s.sched := rfl

@[simp] theorem tx_rxbuf (u : Bytes) (s : State) : (tx u s).fc.rxbuf = s.fc.rxbuf := rfl
@[simp] theorem tx_rxtmr (u : Bytes) (s : State) : (tx u s).fc.rxtmr = s.fc.rxtmr := rfl
@[simp] theorem tx_txq (u : Bytes) (s : State) : (tx u s).fc.txq = s.fc.txq ++ u := rfl
@[simp] theorem tx_se (u : Bytes) (s : State) : (tx u s).se = s.se := rfl
@[simp] theorem tx_tm (u : Bytes) (s : State) : (tx u s).tm = s.tm := rfl
@[simp] theorem tx_ports (u : Bytes) (s : State) : (tx u s).ports = s.ports := rfl
@[simp] theorem tx_seq (u : Bytes) (s : State) : (tx u s).seq = s.seq := rfl
@[simp] theorem tx_pins (u : Bytes) (s : State) : (tx u s).pins = s.pins := rfl
@[simp] theorem tx_sched (u : Bytes) (s : State) : (tx u s).sched = s.sched := rfl

@[simp] theorem receive_rxbuf (b : Byte) (s : State) : (receive b s).fc.rxbuf = s.fc.rxbuf ++ [b] := rfl
@[simp] theorem receive_rxtmr (b : Byte) (s : State) : (receive b s).fc.rxtmr = s.fc.rxtmr := rfl
@[simp] theorem receive_txq (b : Byte) (s : State) : (receive b s).fc.txq = s.fc.txq := rfl
@[simp] theorem receive_se (b : Byte) (s : State) : (receive b s).se = s.se := rfl
@[simp] theorem receive_tm (b : Byte) (s : State) : (receive b s).tm = s.tm := rfl
@[simp] theorem receive_ports (b : Byte) (s : State) : (receive b s).ports = s.ports := rfl
@[simp] theorem receive_seq (b : Byte) (s : State) : (receive b s).seq = s.seq := rfl
@[simp] theorem receive_pins (b : Byte) (s : State) : (receive b s).pins = s.pins := rfl
@[simp] theorem receive_sched (b : Byte) (s : State) : (receive b s).sched = s.sched := rfl

@[simp] theorem emit_fc (e : Event) (s : State) : (emit e s).fc = s.fc := rfl
@[simp] theorem emit_se (e : Event) (s : State) : (emit e s).se = s.se := rfl
@[simp] theorem emit_tm (e : Event) (s : State) : (emit e s).tm = s.tm := rfl
@[simp] theorem emit_wire (e : Event) (s : State) : (emit e s).ports.wire = s.ports.wire := rfl
@[simp] theorem emit_events (e : Event) (s : State) : (emit e s).ports.events = s.ports.events ++ [e] := rfl
@[simp] theorem emit_replies (e : Event) (s : State) : (emit e s).ports.replies = s.ports.replies := rfl
@[simp] theorem emit_drawn (e : Event) (s : State) : (emit e s).ports.drawn = s.ports.drawn := rfl
@[simp] theorem emit_choices (e : Event) (s : State) : (emit e s).ports.choices = s.ports.choices := rfl
@[simp] theorem emit_seq (e : Event) (s : State) : (emit e s).seq = s.seq := rfl
@[simp] theorem emit_pins (e : Event) (s : State) : (emit e s).pins = s.pins := rfl
@[simp] theorem emit_sched (e : Event) (s : State) : (emit e s).sched = s.sched := rfl

@[simp] theorem answer_fc (r : Reply) (s : State) : (answer r s).fc = s.fc := rfl
@[simp] theorem answer_se (r : Reply) (s : State) : (answer r s).se = s.se := rfl
@[simp] theorem answer_tm (r : Reply) (s : State) : (answer r s).tm = s.tm := rfl
@[simp] theorem answer_wire (r : Reply) (s : State) : (answer r s).ports.wire = s.ports.wire := rfl
@[simp] theorem answer_events (r : Reply) (s : State) : (answer r s).ports.events = s.ports.events := rfl
@[simp] theorem answer_replies (r : Reply) (s : State) : (answer r s).ports.replies = s.ports.replies ++ [r] := rfl
@[simp] theorem answer_drawn (r : Reply) (s : State) : (answer r s).ports.drawn = s.ports.drawn := rfl
@[simp] theorem answer_choices (r : Reply) (s : State) : (answer r s).ports.choices = s.ports.choices := rfl
@[simp] theorem answer_seq (r : Reply) (s : State) : (answer r s).seq = s.seq := rfl
@[simp] theorem answer_pins (r : Reply) (s : State) : (answer r s).pins = s.pins := rfl
@[simp] theorem answer_sched (r : Reply) (s : State) : (answer r s).sched = s.sched := rfl

@[simp] theorem raise_fc (e : ErrCode) (s : State) : (raise e s).fc = s.fc := rfl
@[simp] theorem raise_se (e : ErrCode) (s : State) : (raise e s).se = s.se := rfl
@[simp] theorem raise_tm (e : ErrCode) (s : State) : (raise e s).tm = s.tm := rfl
@[simp] theorem raise_wire (e : ErrCode) (s : State) : (raise e s).ports.wire = s.ports.wire := rfl
@[simp] theorem raise_events (e : ErrCode) (s : State) : (raise e s).ports.events = s.ports.events := rfl
@[simp] theorem raise_replies (e : ErrCode) (s : State) : (raise e s).ports.replies = s.ports.replies ++ [.error e] := rfl
@[simp] theorem raise_drawn (e : ErrCode) (s : State) : (raise e s).ports.drawn = s.ports.drawn := rfl
@[simp] theorem raise_choices (e : ErrCode) (s : State) : (raise e s).ports.choices = s.ports.choices := rfl
@[simp] theorem raise_seq (e : ErrCode) (s : State) : (raise e s).seq = s.seq := rfl
@[simp] theorem raise_pins (e : ErrCode) (s : State) : (raise e s).pins = s.pins := rfl
@[simp] theorem raise_sched (e : ErrCode) (s : State) : (raise e s).sched = s.sched := rfl

@[simp] theorem spend_fc (n : Nat) (s : State) : (spend n s).fc = s.fc := rfl
@[simp] theorem spend_se (n : Nat) (s : State) : (spend n s).se = s.se := rfl
@[simp] theorem spend_tm (n : Nat) (s : State) : (spend n s).tm = s.tm := rfl
@[simp] theorem spend_wire (n : Nat) (s : State) : (spend n s).ports.wire = s.ports.wire := rfl
@[simp] theorem spend_events (n : Nat) (s : State) : (spend n s).ports.events = s.ports.events := rfl
@[simp] theorem spend_replies (n : Nat) (s : State) : (spend n s).ports.replies = s.ports.replies := rfl
@[simp] theorem spend_drawn (n : Nat) (s : State) : (spend n s).ports.drawn = s.ports.drawn + n := rfl
@[simp] theorem spend_choices (n : Nat) (s : State) : (spend n s).ports.choices = s.ports.choices := rfl
@[simp] theorem spend_seq (n : Nat) (s : State) : (spend n s).seq = s.seq := rfl
@[simp] theorem spend_pins (n : Nat) (s : State) : (spend n s).pins = s.pins := rfl
@[simp] theorem spend_sched (n : Nat) (s : State) : (spend n s).sched = s.sched := rfl

@[simp] theorem choose_fc (s : State) : (choose s).fc = s.fc := rfl
@[simp] theorem choose_se (s : State) : (choose s).se = s.se := rfl
@[simp] theorem choose_tm (s : State) : (choose s).tm = s.tm := rfl
@[simp] theorem choose_wire (s : State) : (choose s).ports.wire = s.ports.wire := rfl
@[simp] theorem choose_events (s : State) : (choose s).ports.events = s.ports.events := rfl
@[simp] theorem choose_replies (s : State) : (choose s).ports.replies = s.ports.replies := rfl
@[simp] theorem choose_drawn (s : State) : (choose s).ports.drawn = s.ports.drawn := rfl
@[simp] theorem choose_choices (s : State) : (choose s).ports.choices = s.ports.choices + 1 := rfl
@[simp] theorem choose_seq (s : State) : (choose s).seq = s.seq := rfl
@[simp] theorem choose_pins (s : State) : (choose s).pins = s.pins := rfl
@[simp] theorem choose_sched (s : State) : (choose s).sched = s.sched := rfl

@[simp] theorem stamp_fc (s : State) : (stamp s).fc = s.fc := rfl
@[simp] theorem stamp_se (s : State) : (stamp s).se = s.se := rfl
@[simp] theorem stamp_tm (s : State) : (stamp s).tm = s.tm := rfl
@[simp] theorem stamp_ports (s : State) : (stamp s).ports = s.ports := rfl
@[simp] theorem stamp_seq (s : State) : (stamp s).seq = s.seq + 1 := rfl
@[simp] theorem stamp_pins (s : State) : (stamp s).pins = s.pins := rfl
@[simp] theorem stamp_sched (s : State) : (stamp s).sched = s.sched := rfl

@[simp] theorem setNt_fc (t : NonceTable) (s : State) : (setNt t s).fc = s.fc := rfl
@[simp] theorem setNt_ownid (t : NonceTable) (s : State) : (setNt t s).se.ownid = s.se.ownid := rfl
@[simp] theorem setNt_netkey (t : NonceTable) (s : State) : (setNt t s).se.netkey = s.se.netkey := rfl
@[simp] theorem setNt_authkey (t : NonceTable) (s : State) : (setNt t s).se.authkey = s.se.authkey := rfl
@[simp] theorem setNt_enckey (t : NonceTable) (s : State) : (setNt t s).se.enckey = s.se.enckey := rfl
@[simp] theorem setNt_keyvalid (t : NonceTable) (s : State) : (setNt t s).se.keyvalid = s.se.keyvalid := rfl
@[simp] theorem setNt_nt (t : NonceTable) (s : State) : (setNt t s).se.nt = t := rfl
@[simp] theorem setNt_tm (t : NonceTable) (s : State) : (setNt t s).tm = s.tm := rfl
@[simp] theorem setNt_ports (t : NonceTable) (s : State) : (setNt t s).ports = s.ports := rfl
@[simp] theorem setNt_seq (t : NonceTable) (s : State) : (setNt t s).seq = s.seq := rfl
@[simp] theorem setNt_pins (t : NonceTable) (s : State) : (setNt t s).pins = s.pins := rfl
@[simp] theorem setNt_sched (t : NonceTable) (s : State) : (setNt t s).sched = s.sched := rfl

@[simp] theorem dropNonce_fc (k : NonceKey) (s : State) : (dropNonce k s).fc = s.fc := rfl
@[simp] theorem dropNonce_ownid (k : NonceKey) (s : State) : (dropNonce k s).se.ownid = s.se.ownid := rfl
@[simp] theorem dropNonce_netkey (k : NonceKey) (s : State) : (dropNonce k s).se.netkey = s.se.netkey := rfl
@[simp] theorem dropNonce_authkey (k : NonceKey) (s : State) : (dropNonce k s).se.authkey = s.se.authkey := rfl
@[simp] theorem dropNonce_enckey (k : NonceKey) (s : State) : (dropNonce k s).se.enckey = s.se.enckey := rfl
@[simp] theorem dropNonce_keyvalid (k : NonceKey) (s : State) : (dropNonce k s).se.keyvalid = s.se.keyvalid := rfl
@[simp] theorem dropNonce_nt (k : NonceKey) (s : State) : (dropNonce k s).se.nt = ntDelete k s.se.nt := rfl
@[simp] theorem dropNonce_tm (k : NonceKey) (s : State) : (dropNonce k s).tm = s.tm := rfl
@[simp] theorem dropNonce_ports (k : NonceKey) (s : State) : (dropNonce k s).ports = s.ports := rfl
@[simp] theorem dropNonce_seq (k : NonceKey) (s : State) : (dropNonce k s).seq = s.seq := rfl
@[simp] theorem dropNonce_pins (k : NonceKey) (s : State) : (dropNonce k s).pins = s.pins := rfl
@[simp] theorem dropNonce_sched (k : NonceKey) (s : State) : (dropNonce k s).sched = s.sched := rfl

@[simp] theorem arm_fc (k : TmTimer) (s : State) : (arm k s).fc = s.fc := rfl
@[simp] theorem arm_se (k : TmTimer) (s : State) : (arm k s).se = s.se := rfl
@[simp] theorem arm_st (k : TmTimer) (s : State) : (arm k s).tm.st = s.tm.st := rfl
@[simp] theorem arm_ph (k : TmTimer) (s : State) : (arm k s).tm.ph = s.tm.ph := rfl
@[simp] theorem arm_cur (k : TmTimer) (s : State) : (arm k s).tm.cur = s.tm.cur := rfl
@[simp] theorem arm_hsf (k : TmTimer) (s : State) : (arm k s).tm.hsf = s.tm.hsf := rfl
@[simp] theorem arm_txframe (k : TmTimer) (s : State) : (arm k s).tm.txframe = s.tm.txframe := rfl
@[simp] theorem arm_hsreply (k : TmTimer) (s : State) : (arm k s).tm.hsreply = s.tm.hsreply := rfl
@[simp] theorem arm_cause (k : TmTimer) (s : State) : (arm k s).tm.cause = s.tm.cause := rfl
@[simp] theorem arm_tmr (k : TmTimer) (s : State) : (arm k s).tm.tmr = k := rfl
@[simp] theorem arm_q (k : TmTimer) (s : State) : (arm k s).tm.q = s.tm.q := rfl
@[simp] theorem arm_life (k : TmTimer) (s : State) : (arm k s).tm.life = s.tm.life := rfl
@[simp] theorem arm_ports (k : TmTimer) (s : State) : (arm k s).ports = s.ports := rfl
@[simp] theorem arm_seq (k : TmTimer) (s : State) : (arm k s).seq = s.seq := rfl
@[simp] theorem arm_pins (k : TmTimer) (s : State) : (arm k s).pins = s.pins := rfl
@[simp] theorem arm_sched (k : TmTimer) (s : State) : (arm k s).sched = s.sched := rfl

@[simp] theorem disarm_fc (s : State) : (disarm s).fc = s.fc := rfl
@[simp] theorem disarm_se (s : State) : (disarm s).se = s.se := rfl
@[simp] theorem disarm_st (s : State) : (disarm s).tm.st = s.tm.st := rfl
@[simp] theorem disarm_ph (s : State) : (disarm s).tm.ph = s.tm.ph := rfl
@[simp] theorem disarm_cur (s : State) : (disarm s).tm.cur = s.tm.cur := rfl
@[simp] theorem disarm_hsf (s : State) : (disarm s).tm.hsf = s.tm.hsf := rfl
@[simp] theorem disarm_txframe (s : State) : (disarm s).tm.txframe = s.tm.txframe := rfl
@[simp] theorem disarm_hsreply (s : State) : (disarm s).tm.hsreply = s.tm.hsreply := rfl
@[simp] theorem disarm_cause (s : State) : (disarm s).tm.cause = s.tm.cause := rfl
@[simp] theorem disarm_tmr (s : State) : (disarm s).tm.tmr = .off := rfl
@[simp] theorem disarm_q (s : State) : (disarm s).tm.q = s.tm.q := rfl
@[simp] theorem disarm_life (s : State) : (disarm s).tm.life = s.tm.life := rfl
@[simp] theorem disarm_ports (s : State) : (disarm s).ports = s.ports := rfl
@[simp] theorem disarm_seq (s : State) : (disarm s).seq = s.seq := rfl
@[simp] theorem disarm_pins (s : State) : (disarm s).pins = s.pins := rfl
@[simp] theorem disarm_sched (s : State) : (disarm s).sched = s.sched := rfl

@[simp] theorem report_fc (o : TxnOutcome) (t : Txn) (s : State) : (report o t s).fc = s.fc := rfl
@[simp] theorem report_se (o : TxnOutcome) (t : Txn) (s : State) : (report o t s).se = s.se := rfl
@[simp] theorem report_tm (o : TxnOutcome) (t : Txn) (s : State) : (report o t s).tm = s.tm := rfl
@[simp] theorem report_wire (o : TxnOutcome) (t : Txn) (s : State) : (report o t s).ports.wire = s.ports.wire := rfl
@[simp] theorem report_events (o : TxnOutcome) (t : Txn) (s : State) : (report o t s).ports.events = s.ports.events ++ [.txnDone t.id o] := rfl
@[simp] theorem report_replies (o : TxnOutcome) (t : Txn) (s : State) : (report o t s).ports.replies = s.ports.replies := rfl
@[simp] theorem report_drawn (o : TxnOutcome) (t : Txn) (s : State) : (report o t s).ports.drawn = s.ports.drawn := rfl
@[simp] theorem report_choices (o : TxnOutcome) (t : Txn) (s : State) : (report o t s).ports.choices = s.ports.choices := rfl
@[simp] theorem report_seq (o : TxnOutcome) (t : Txn) (s : State) : (report o t s).seq = s.seq := rfl
@[simp] theorem report_pins (o : TxnOutcome) (t : Txn) (s : State) : (report o t s).pins = s.pins := rfl
@[simp] theorem report_sched (o : TxnOutcome) (t : Txn) (s : State) : (report o t s).sched = s.sched := rfl

@[simp] theorem setQ_fc (q : List Txn) (s : State) : (setQ q s).fc = s.fc := rfl
@[simp] theorem setQ_se (q : List Txn) (s : State) : (setQ q s).se = s.se := rfl
@[simp] theorem setQ_st (q : List Txn) (s : State) : (setQ q s).tm.st = s.tm.st := rfl
@[simp] theorem setQ_ph (q : List Txn) (s : State) : (setQ q s).tm.ph = s.tm.ph := rfl
@[simp] theorem setQ_cur (q : List Txn) (s : State) : (setQ q s).tm.cur = s.tm.cur := rfl
@[simp] theorem setQ_hsf (q : List Txn) (s : State) : (setQ q s).tm.hsf = s.tm.hsf := rfl
@[simp] theorem setQ_txframe (q : List Txn) (s : State) : (setQ q s).tm.txframe = s.tm.txframe := rfl
@[simp] theorem setQ_hsreply (q : List Txn) (s : State) : (setQ q s).tm.hsreply = s.tm.hsreply := rfl
@[simp] theorem setQ_cause (q : List Txn) (s : State) : (setQ q s).tm.cause = s.tm.cause := rfl
@[simp] theorem setQ_tmr (q : List Txn) (s : State) : (setQ q s).tm.tmr = s.tm.tmr := rfl
@[simp] theorem setQ_q (q : List Txn) (s : State) : (setQ q s).tm.q = q := rfl
@[simp] theorem setQ_life (q : List Txn) (s : State) : (setQ q s).tm.life = s.tm.life := rfl
@[simp] theorem setQ_ports (q : List Txn) (s : State) : (setQ q s).ports = s.ports := rfl
@[simp] theorem setQ_seq (q : List Txn) (s : State) : (setQ q s).seq = s.seq := rfl
@[simp] theorem setQ_pins (q : List Txn) (s : State) : (setQ q s).pins = s.pins := rfl
@[simp] theorem setQ_sched (q : List Txn) (s : State) : (setQ q s).sched = s.sched := rfl

@[simp] theorem toIdle_fc (s : State) : (toIdle s).fc = s.fc := rfl
@[simp] theorem toIdle_se (s : State) : (toIdle s).se = s.se := rfl
@[simp] theorem toIdle_st (s : State) : (toIdle s).tm.st = .idle := rfl
@[simp] theorem toIdle_ph (s : State) : (toIdle s).tm.ph = .none := rfl
@[simp] theorem toIdle_cur (s : State) : (toIdle s).tm.cur = none := rfl
@[simp] theorem toIdle_hsf (s : State) : (toIdle s).tm.hsf = false := rfl
@[simp] theorem toIdle_txframe (s : State) : (toIdle s).tm.txframe = none := rfl
@[simp] theorem toIdle_hsreply (s : State) : (toIdle s).tm.hsreply = none := rfl
@[simp] theorem toIdle_cause (s : State) : (toIdle s).tm.cause = none := rfl
@[simp] theorem toIdle_tmr (s : State) : (toIdle s).tm.tmr = .off := rfl
@[simp] theorem toIdle_q (s : State) : (toIdle s).tm.q = s.tm.q := rfl
@[simp] theorem toIdle_life (s : State) : (toIdle s).tm.life = s.tm.life := rfl
@[simp] theorem toIdle_ports (s : State) : (toIdle s).ports = s.ports := rfl
@[simp] theorem toIdle_seq (s : State) : (toIdle s).seq = s.seq := rfl
@[simp] theorem toIdle_pins (s : State) : (toIdle s).pins = s.pins := rfl
@[simp] theorem toIdle_sched (s : State) : (toIdle s).sched = s.sched := rfl

@[simp] theorem setSched_fc (l : List Input) (s : State) : (setSched l s).fc = s.fc := rfl
@[simp] theorem setSched_se (l : List Input) (s : State) : (setSched l s).se = s.se := rfl
@[simp] theorem setSched_tm (l : List Input) (s : State) : (setSched l s).tm = s.tm := rfl
@[simp] theorem setSched_ports (l : List Input) (s : State) : (setSched l s).ports = s.ports := rfl
@[simp] theorem setSched_seq (l : List Input) (s : State) : (setSched l s).seq = s.seq := rfl
@[simp] theorem setSched_pins (l : List Input) (s : State) : (setSched l s).pins = s.pins := rfl
@[simp] theorem setSched_sched (l : List Input) (s : State) : (setSched l s).sched = l := rfl

@[simp] theorem setPins_fc (p : HostPins) (s : State) : (setPins p s).fc = s.fc := rfl
@[simp] theorem setPins_se (p : HostPins) (s : State) : (setPins p s).se = s.se := rfl
@[simp] theorem setPins_tm (p : HostPins) (s : State) : (setPins p s).tm = s.tm := rfl
@[simp] theorem setPins_ports (p : HostPins) (s : State) : (setPins p s).ports = s.ports := rfl
@[simp] theorem setPins_seq (p : HostPins) (s : State) : (setPins p s).seq = s.seq := rfl
@[simp] theorem setPins_pins (p : HostPins) (s : State) : (setPins p s).pins = p := rfl
@[simp] theorem setPins_sched (p : HostPins) (s : State) : (setPins p s).sched = s.sched := rfl

@[simp] theorem lineTimer_rxbuf (s : State) : (lineTimer s).fc.rxbuf = s.fc.rxbuf := rfl
@[simp] theorem lineTimer_rxtmr (s : State) : (lineTimer s).fc.rxtmr = !s.fc.rxbuf.isEmpty := rfl
@[simp] theorem lineTimer_txq (s : State) : (lineTimer s).fc.txq = s.fc.txq := rfl
@[simp] theorem lineTimer_se (s : State) : (lineTimer s).se = s.se := rfl
@[simp] theorem lineTimer_tm (s : State) : (lineTimer s).tm = s.tm := rfl
@[simp] theorem lineTimer_ports (s : State) : (lineTimer s).ports = s.ports := rfl
@[simp] theorem lineTimer_seq (s : State) : (lineTimer s).seq = s.seq := rfl
@[simp] theorem lineTimer_pins (s : State) : (lineTimer s).pins = s.pins := rfl
@[simp] theorem lineTimer_sched (s : State) : (lineTimer s).sched = s.sched := rfl

@[simp] theorem destroy_fc (s : State) : (destroy s).fc = s.fc := rfl
@[simp] theorem destroy_se (s : State) : (destroy s).se = s.se := rfl
@[simp] theorem destroy_st (s : State) : (destroy s).tm.st = s.tm.st := rfl
@[simp] theorem destroy_ph (s : State) : (destroy s).tm.ph = s.tm.ph := rfl
@[simp] theorem destroy_cur (s : State) : (destroy s).tm.cur = s.tm.cur := rfl
@[simp] theorem destroy_hsf (s : State) : (destroy s).tm.hsf = s.tm.hsf := rfl
@[simp] theorem destroy_txframe (s : State) : (destroy s).tm.txframe = s.tm.txframe := rfl
@[simp] theorem destroy_hsreply (s : State) : (destroy s).tm.hsreply = s.tm.hsreply := rfl
@[simp] theorem destroy_cause (s : State) : (destroy s).tm.cause = s.tm.cause := rfl
@[simp] theorem destroy_tmr (s : State) : (destroy s).tm.tmr = s.tm.tmr := rfl
@[simp] theorem destroy_q (s : State) : (destroy s).tm.q = s.tm.q := rfl
@[simp] theorem destroy_life (s : State) : (destroy s).tm.life = .destroyed := rfl
@[simp] theorem destroy_ports (s : State) : (destroy s).ports = s.ports := rfl
@[simp] theorem destroy_seq (s : State) : (destroy s).seq = s.seq := rfl
@[simp] theorem destroy_pins (s : State) : (destroy s).pins = s.pins := rfl
@[simp] theorem destroy_sched (s : State) : (destroy s).sched = s.sched := rfl

@[simp] theorem loadKeys_fc (a b c : Bytes) (s : State) : (loadKeys a b c s).fc = s.fc := rfl
@[simp] theorem loadKeys_ownid (a b c : Bytes) (s : State) : (loadKeys a b c s).se.ownid = s.se.ownid := rfl
@[simp] theorem loadKeys_netkey (a b c : Bytes) (s : State) : (loadKeys a b c s).se.netkey = a := rfl
@[simp] theorem loadKeys_authkey (a b c : Bytes) (s : State) : (loadKeys a b c s).se.authkey = b := rfl
@[simp] theorem loadKeys_enckey (a b c : Bytes) (s : State) : (loadKeys a b c s).se.enckey = c := rfl
@[simp] theorem loadKeys_keyvalid (a b c : Bytes) (s : State) : (loadKeys a b c s).se.keyvalid = true := rfl
@[simp] theorem loadKeys_nt (a b c : Bytes) (s : State) : (loadKeys a b c s).se.nt = s.se.nt := rfl
@[simp] theorem loadKeys_tm (a b c : Bytes) (s : State) : (loadKeys a b c s).tm = s.tm := rfl
@[simp] theorem loadKeys_ports (a b c : Bytes) (s : State) : (loadKeys a b c s).ports = s.ports := rfl
@[simp] theorem loadKeys_seq (a b c : Bytes) (s : State) : (loadKeys a b c s).seq = s.seq := rfl
@[simp] theorem loadKeys_pins (a b c : Bytes) (s : State) : (loadKeys a b c s).pins = s.pins := rfl
@[simp] theorem loadKeys_sched (a b c : Bytes) (s : State) : (loadKeys a b c s).sched = s.sched := rfl

@[simp] theorem startAttempt_rxbuf (f : Bytes) (s : State) : (startAttempt f s).fc.rxbuf = s.fc.rxbuf := rfl
@[simp] theorem startAttempt_rxtmr (f : Bytes) (s : State) : (startAttempt f s).fc.rxtmr = s.fc.rxtmr := rfl
@[simp] theorem startAttempt_txq (f : Bytes) (s : State) : (startAttempt f s).fc.txq = s.fc.txq ++ f := rfl
@[simp] theorem startAttempt_se (f : Bytes) (s : State) : (startAttempt f s).se = s.se := rfl
@[simp] theorem startAttempt_st (f : Bytes) (s : State) : (startAttempt f s).tm.st = s.tm.st := rfl
@[simp] theorem startAttempt_ph (f : Bytes) (s : State) : (startAttempt f s).tm.ph = .waitAck := rfl
@[simp] theorem startAttempt_cur (f : Bytes) (s : State) : (startAttempt f s).tm.cur = s.tm.cur := rfl
@[simp] theorem startAttempt_hsf (f : Bytes) (s : State) : (startAttempt f s).tm.hsf = s.tm.hsf := rfl
@[simp] theorem startAttempt_txframe (f : Bytes) (s : State) : (startAttempt f s).tm.txframe = s.tm.txframe := rfl
@[simp] theorem startAttempt_hsreply (f : Bytes) (s : State) : (startAttempt f s).tm.hsreply = s.tm.hsreply := rfl
@[simp] theorem startAttempt_cause (f : Bytes) (s : State) : (startAttempt f s).tm.cause = s.tm.cause := rfl
@[simp] theorem startAttempt_tmr (f : Bytes) (s : State) : (startAttempt f s).tm.tmr = .ack := rfl
@[simp] theorem startAttempt_q (f : Bytes) (s : State) : (startAttempt f s).tm.q = s.tm.q := rfl
@[simp] theorem startAttempt_life (f : Bytes) (s : State) : (startAttempt f s).tm.life = s.tm.life := rfl
@[simp] theorem startAttempt_ports (f : Bytes) (s : State) : (startAttempt f s).ports = s.ports := rfl
@[simp] theorem startAttempt_seq (f : Bytes) (s : State) : (startAttempt f s).seq = s.seq := rfl
@[simp] theorem startAttempt_pins (f : Bytes) (s : State) : (startAttempt f s).pins = s.pins := rfl
@[simp] theorem startAttempt_sched (f : Bytes) (s : State) : (startAttempt f s).sched = s.sched := rfl

@[simp] theorem recordFailure_fc (e : ErrCode) (t : Txn) (s : State) : (recordFailure e t s).fc = s.fc := rfl
@[simp] theorem recordFailure_se (e : ErrCode) (t : Txn) (s : State) : (recordFailure e t s).se = s.se := rfl
@[simp] theorem recordFailure_st (e : ErrCode) (t : Txn) (s : State) : (recordFailure e t s).tm.st = s.tm.st := rfl
@[simp] theorem recordFailure_ph (e : ErrCode) (t : Txn) (s : State) : (recordFailure e t s).tm.ph = .none := rfl
@[simp] theorem recordFailure_cur (e : ErrCode) (t : Txn) (s : State) : (recordFailure e t s).tm.cur = some (oneMore t) := rfl
@[simp] theorem recordFailure_hsf (e : ErrCode) (t : Txn) (s : State) : (recordFailure e t s).tm.hsf = hsfOf s.tm.st e := rfl
@[simp] theorem recordFailure_txframe (e : ErrCode) (t : Txn) (s : State) : (recordFailure e t s).tm.txframe = s.tm.txframe := rfl
@[simp] theorem recordFailure_hsreply (e : ErrCode) (t : Txn) (s : State) : (recordFailure e t s).tm.hsreply = s.tm.hsreply := rfl
@[simp] theorem recordFailure_cause (e : ErrCode) (t : Txn) (s : State) : (recordFailure e t s).tm.cause = some e := rfl
@[simp] theorem recordFailure_tmr (e : ErrCode) (t : Txn) (s : State) : (recordFailure e t s).tm.tmr = .off := rfl
@[simp] theorem recordFailure_q (e : ErrCode) (t : Txn) (s : State) : (recordFailure e t s).tm.q = s.tm.q := rfl
@[simp] theorem recordFailure_life (e : ErrCode) (t : Txn) (s : State) : (recordFailure e t s).tm.life = s.tm.life := rfl
@[simp] theorem recordFailure_ports (e : ErrCode) (t : Txn) (s : State) : (recordFailure e t s).ports = s.ports := rfl
@[simp] theorem recordFailure_seq (e : ErrCode) (t : Txn) (s : State) : (recordFailure e t s).seq = s.seq := rfl
@[simp] theorem recordFailure_pins (e : ErrCode) (t : Txn) (s : State) : (recordFailure e t s).pins = s.pins := rfl
@[simp] theorem recordFailure_sched (e : ErrCode) (t : Txn) (s : State) : (recordFailure e t s).sched = s.sched := rfl

@[simp] theorem enterRetryWait_fc (s : State) : (enterRetryWait s).fc = s.fc := rfl
@[simp] theorem enterRetryWait_se (s : State) : (enterRetryWait s).se = s.se := rfl
@[simp] theorem enterRetryWait_st (s : State) : (enterRetryWait s).tm.st = .retryWait := rfl
@[simp] theorem enterRetryWait_ph (s : State) : (enterRetryWait s).tm.ph = s.tm.ph := rfl
@[simp] theorem enterRetryWait_cur (s : State) : (enterRetryWait s).tm.cur = s.tm.cur := rfl
@[simp] theorem enterRetryWait_hsf (s : State) : (enterRetryWait s).tm.hsf = s.tm.hsf := rfl
@[simp] theorem enterRetryWait_txframe (s : State) : (enterRetryWait s).tm.txframe = s.tm.txframe := rfl
@[simp] theorem enterRetryWait_hsreply (s : State) : (enterRetryWait s).tm.hsreply = s.tm.hsreply := rfl
@[simp] theorem enterRetryWait_cause (s : State) : (enterRetryWait s).tm.cause = s.tm.cause := rfl
@[simp] theorem enterRetryWait_tmr (s : State) : (enterRetryWait s).tm.tmr = .retry := rfl
@[simp] theorem enterRetryWait_q (s : State) : (enterRetryWait s).tm.q = s.tm.q := rfl
@[simp] theorem enterRetryWait_life (s : State) : (enterRetryWait s).tm.life = s.tm.life := rfl
@[simp] theorem enterRetryWait_ports (s : State) : (enterRetryWait s).ports = s.ports := rfl
@[simp] theorem enterRetryWait_seq (s : State) : (enterRetryWait s).seq = s.seq := rfl
@[simp] theorem enterRetryWait_pins (s : State) : (enterRetryWait s).pins = s.pins := rfl
@[simp] theorem enterRetryWait_sched (s : State) : (enterRetryWait s).sched = s.sched := rfl

@[simp] theorem setSt_fc (st : TmState) (s : State) : (setSt st s).fc = s.fc := rfl
@[simp] theorem setSt_se (st : TmState) (s : State) : (setSt st s).se = s.se := rfl
@[simp] theorem setSt_st (st : TmState) (s : State) : (setSt st s).tm.st = st := rfl
@[simp] theorem setSt_ph (st : TmState) (s : State) : (setSt st s).tm.ph = s.tm.ph := rfl
@[simp] theorem setSt_cur (st : TmState) (s : State) : (setSt st s).tm.cur = s.tm.cur := rfl
@[simp] theorem setSt_hsf (st : TmState) (s : State) : (setSt st s).tm.hsf = s.tm.hsf := rfl
@[simp] theorem setSt_txframe (st : TmState) (s : State) : (setSt st s).tm.txframe = s.tm.txframe := rfl
@[simp] theorem setSt_hsreply (st : TmState) (s : State) : (setSt st s).tm.hsreply = s.tm.hsreply := rfl
@[simp] theorem setSt_cause (st : TmState) (s : State) : (setSt st s).tm.cause = s.tm.cause := rfl
@[simp] theorem setSt_tmr (st : TmState) (s : State) : (setSt st s).tm.tmr = s.tm.tmr := rfl
@[simp] theorem setSt_q (st : TmState) (s : State) : (setSt st s).tm.q = s.tm.q := rfl
@[simp] theorem setSt_life (st : TmState) (s : State) : (setSt st s).tm.life = s.tm.life := rfl
@[simp] theorem setSt_ports (st : TmState) (s : State) : (setSt st s).ports = s.ports := rfl
@[simp] theorem setSt_seq (st : TmState) (s : State) : (setSt st s).seq = s.seq := rfl
@[simp] theorem setSt_pins (st : TmState) (s : State) : (setSt st s).pins = s.pins := rfl
@[simp] theorem setSt_sched (st : TmState) (s : State) : (setSt st s).sched = s.sched := rfl

@[simp] theorem latchFrame_fc (f : Bytes) (s : State) : (latchFrame f s).fc = s.fc := rfl
@[simp] theorem latchFrame_se (f : Bytes) (s : State) : (latchFrame f s).se = s.se := rfl
@[simp] theorem latchFrame_st (f : Bytes) (s : State) : (latchFrame f s).tm.st = s.tm.st := rfl
@[simp] theorem latchFrame_ph (f : Bytes) (s : State) : (latchFrame f s).tm.ph = s.tm.ph := rfl
@[simp] theorem latchFrame_cur (f : Bytes) (s : State) : (latchFrame f s).tm.cur = s.tm.cur := rfl
@[simp] theorem latchFrame_hsf (f : Bytes) (s : State) : (latchFrame f s).tm.hsf = s.tm.hsf := rfl
@[simp] theorem latchFrame_txframe (f : Bytes) (s : State) : (latchFrame f s).tm.txframe = some f := rfl
@[simp] theorem latchFrame_hsreply (f : Bytes) (s : State) : (latchFrame f s).tm.hsreply = s.tm.hsreply := rfl
@[simp] theorem latchFrame_cause (f : Bytes) (s : State) : (latchFrame f s).tm.cause = s.tm.cause := rfl
@[simp] theorem latchFrame_tmr (f : Bytes) (s : State) : (latchFrame f s).tm.tmr = s.tm.tmr := rfl
@[simp] theorem latchFrame_q (f : Bytes) (s : State) : (latchFrame f s).tm.q = s.tm.q := rfl
@[simp] theorem latchFrame_life (f : Bytes) (s : State) : (latchFrame f s).tm.life = s.tm.life := rfl
@[simp] theorem latchFrame_ports (f : Bytes) (s : State) : (latchFrame f s).ports = s.ports := rfl
@[simp] theorem latchFrame_seq (f : Bytes) (s : State) : (latchFrame f s).seq = s.seq := rfl
@[simp] theorem latchFrame_pins (f : Bytes) (s : State) : (latchFrame f s).pins = s.pins := rfl
@[simp] theorem latchFrame_sched (f : Bytes) (s : State) : (latchFrame f s).sched = s.sched := rfl

@[simp] theorem latchReply_fc (r : Option Message) (s : State) : (latchReply r s).fc = s.fc := rfl
@[simp] theorem latchReply_se (r : Option Message) (s : State) : (latchReply r s).se = s.se := rfl
@[simp] theorem latchReply_st (r : Option Message) (s : State) : (latchReply r s).tm.st = s.tm.st := rfl
@[simp] theorem latchReply_ph (r : Option Message) (s : State) : (latchReply r s).tm.ph = s.tm.ph := rfl
@[simp] theorem latchReply_cur (r : Option Message) (s : State) : (latchReply r s).tm.cur = s.tm.cur := rfl
@[simp] theorem latchReply_hsf (r : Option Message) (s : State) : (latchReply r s).tm.hsf = s.tm.hsf := rfl
@[simp] theorem latchReply_txframe (r : Option Message) (s : State) : (latchReply r s).tm.txframe = s.tm.txframe := rfl
@[simp] theorem latchReply_hsreply (r : Option Message) (s : State) : (latchReply r s).tm.hsreply = r := rfl
@[simp] theorem latchReply_cause (r : Option Message) (s : State) : (latchReply r s).tm.cause = s.tm.cause := rfl
@[simp] theorem latchReply_tmr (r : Option Message) (s : State) : (latchReply r s).tm.tmr = s.tm.tmr := rfl
@[simp] theorem latchReply_q (r : Option Message) (s : State) : (latchReply r s).tm.q = s.tm.q := rfl
@[simp] theorem latchReply_life (r : Option Message) (s : State) : (latchReply r s).tm.life = s.tm.life := rfl
@[simp] theorem latchReply_ports (r : Option Message) (s : State) : (latchReply r s).ports = s.ports := rfl
@[simp] theorem latchReply_seq (r : Option Message) (s : State) : (latchReply r s).seq = s.seq := rfl
@[simp] theorem latchReply_pins (r : Option Message) (s : State) : (latchReply r s).pins = s.pins := rfl
@[simp] theorem latchReply_sched (r : Option Message) (s : State) : (latchReply r s).sched = s.sched := rfl

@[simp] theorem enterWaitForUpdate_fc (s : State) : (enterWaitForUpdate s).fc = s.fc := rfl
@[simp] theorem enterWaitForUpdate_se (s : State) : (enterWaitForUpdate s).se = s.se := rfl
@[simp] theorem enterWaitForUpdate_st (s : State) : (enterWaitForUpdate s).tm.st = .waitForUpdate := rfl
@[simp] theorem enterWaitForUpdate_ph (s : State) : (enterWaitForUpdate s).tm.ph = s.tm.ph := rfl
@[simp] theorem enterWaitForUpdate_cur (s : State) : (enterWaitForUpdate s).tm.cur = s.tm.cur := rfl
@[simp] theorem enterWaitForUpdate_hsf (s : State) : (enterWaitForUpdate s).tm.hsf = s.tm.hsf := rfl
@[simp] theorem enterWaitForUpdate_txframe (s : State) : (enterWaitForUpdate s).tm.txframe = s.tm.txframe := rfl
@[simp] theorem enterWaitForUpdate_hsreply (s : State) : (enterWaitForUpdate s).tm.hsreply = s.tm.hsreply := rfl
@[simp] theorem enterWaitForUpdate_cause (s : State) : (enterWaitForUpdate s).tm.cause = s.tm.cause := rfl
@[simp] theorem enterWaitForUpdate_tmr (s : State) : (enterWaitForUpdate s).tm.tmr = .upd := rfl
@[simp] theorem enterWaitForUpdate_q (s : State) : (enterWaitForUpdate s).tm.q = s.tm.q := rfl
@[simp] theorem enterWaitForUpdate_life (s : State) : (enterWaitForUpdate s).tm.life = s.tm.life := rfl
@[simp] theorem enterWaitForUpdate_ports (s : State) : (enterWaitForUpdate s).ports = s.ports := rfl
@[simp] theorem enterWaitForUpdate_seq (s : State) : (enterWaitForUpdate s).seq = s.seq := rfl
@[simp] theorem enterWaitForUpdate_pins (s : State) : (enterWaitForUpdate s).pins = s.pins := rfl
@[simp] theorem enterWaitForUpdate_sched (s : State) : (enterWaitForUpdate s).sched = s.sched := rfl

@[simp] theorem endPrimitive_fc (s : State) : (endPrimitive s).fc = s.fc := rfl
@[simp] theorem endPrimitive_se (s : State) : (endPrimitive s).se = s.se := rfl
@[simp] theorem endPrimitive_st (s : State) : (endPrimitive s).tm.st = s.tm.st := rfl
@[simp] theorem endPrimitive_ph (s : State) : (endPrimitive s).tm.ph = .none := rfl
@[simp] theorem endPrimitive_cur (s : State) : (endPrimitive s).tm.cur = s.tm.cur := rfl
@[simp] theorem endPrimitive_hsf (s : State) : (endPrimitive s).tm.hsf = s.tm.hsf := rfl
@[simp] theorem endPrimitive_txframe (s : State) : (endPrimitive s).tm.txframe = s.tm.txframe := rfl
@[simp] theorem endPrimitive_hsreply (s : State) : (endPrimitive s).tm.hsreply = s.tm.hsreply := rfl
@[simp] theorem endPrimitive_cause (s : State) : (endPrimitive s).tm.cause = s.tm.cause := rfl
@[simp] theorem endPrimitive_tmr (s : State) : (endPrimitive s).tm.tmr = .off := rfl
@[simp] theorem endPrimitive_q (s : State) : (endPrimitive s).tm.q = s.tm.q := rfl
@[simp] theorem endPrimitive_life (s : State) : (endPrimitive s).tm.life = s.tm.life := rfl
@[simp] theorem endPrimitive_ports (s : State) : (endPrimitive s).ports = s.ports := rfl
@[simp] theorem endPrimitive_seq (s : State) : (endPrimitive s).seq = s.seq := rfl
@[simp] theorem endPrimitive_pins (s : State) : (endPrimitive s).pins = s.pins := rfl
@[simp] theorem endPrimitive_sched (s : State) : (endPrimitive s).sched = s.sched := rfl

@[simp] theorem awaitReply_fc (s : State) : (awaitReply s).fc = s.fc := rfl
@[simp] theorem awaitReply_se (s : State) : (awaitReply s).se = s.se := rfl
@[simp] theorem awaitReply_st (s : State) : (awaitReply s).tm.st = s.tm.st := rfl
@[simp] theorem awaitReply_ph (s : State) : (awaitReply s).tm.ph = .waitReply := rfl
@[simp] theorem awaitReply_cur (s : State) : (awaitReply s).tm.cur = s.tm.cur := rfl
@[simp] theorem awaitReply_hsf (s : State) : (awaitReply s).tm.hsf = s.tm.hsf := rfl
@[simp] theorem awaitReply_txframe (s : State) : (awaitReply s).tm.txframe = s.tm.txframe := rfl
@[simp] theorem awaitReply_hsreply (s : State) : (awaitReply s).tm.hsreply = s.tm.hsreply := rfl
@[simp] theorem awaitReply_cause (s : State) : (awaitReply s).tm.cause = s.tm.cause := rfl
@[simp] theorem awaitReply_tmr (s : State) : (awaitReply s).tm.tmr = .resp := rfl
@[simp] theorem awaitReply_q (s : State) : (awaitReply s).tm.q = s.tm.q := rfl
@[simp] theorem awaitReply_life (s : State) : (awaitReply s).tm.life = s.tm.life := rfl
@[simp] theorem awaitReply_ports (s : State) : (awaitReply s).ports = s.ports := rfl
@[simp] theorem awaitReply_seq (s : State) : (awaitReply s).seq = s.seq := rfl
@[simp] theorem awaitReply_pins (s : State) : (awaitReply s).pins = s.pins := rfl
@[simp] theorem awaitReply_sched (s : State) : (awaitReply s).sched = s.sched := rfl

@[simp] theorem rejectFrame_rxbuf (n : Nat) (s : State) : (rejectFrame n s).fc.rxbuf = s.fc.rxbuf.drop n := rfl
@[simp] theorem rejectFrame_rxtmr (n : Nat) (s : State) : (rejectFrame n s).fc.rxtmr = s.fc.rxtmr := rfl
@[simp] theorem rejectFrame_txq (n : Nat) (s : State) : (rejectFrame n s).fc.txq = s.fc.txq ++ [nakByte] := rfl
@[simp] theorem rejectFrame_se (n : Nat) (s : State) : (rejectFrame n s).se = s.se := rfl
@[simp] theorem rejectFrame_tm (n : Nat) (s : State) : (rejectFrame n s).tm = s.tm := rfl
@[simp] theorem rejectFrame_ports (n : Nat) (s : State) : (rejectFrame n s).ports = s.ports := rfl
@[simp] theorem rejectFrame_seq (n : Nat) (s : State) : (rejectFrame n s).seq = s.seq := rfl
@[simp] theorem rejectFrame_pins (n : Nat) (s : State) : (rejectFrame n s).pins = s.pins := rfl
@[simp] theorem rejectFrame_sched (n : Nat) (s : State) : (rejectFrame n s).sched = s.sched := rfl

@[simp] theorem acceptFrame_rxbuf (n : Nat) (s : State) : (acceptFrame n s).fc.rxbuf = s.fc.rxbuf.drop n := rfl
@[simp] theorem acceptFrame_rxtmr (n : Nat) (s : State) : (acceptFrame n s).fc.rxtmr = s.fc.rxtmr := rfl
@[simp] theorem acceptFrame_txq (n : Nat) (s : State) : (acceptFrame n s).fc.txq = s.fc.txq ++ [ackByte] := rfl
@[simp] theorem acceptFrame_se (n : Nat) (s : State) : (acceptFrame n s).se = s.se := rfl
@[simp] theorem acceptFrame_tm (n : Nat) (s : State) : (acceptFrame n s).tm = s.tm := rfl
@[simp] theorem acceptFrame_ports (n : Nat) (s : State) : (acceptFrame n s).ports = s.ports := rfl
@[simp] theorem acceptFrame_seq (n : Nat) (s : State) : (acceptFrame n s).seq = s.seq := rfl
@[simp] theorem acceptFrame_pins (n : Nat) (s : State) : (acceptFrame n s).pins = s.pins := rfl
@[simp] theorem acceptFrame_sched (n : Nat) (s : State) : (acceptFrame n s).sched = s.sched := rfl

@[simp] theorem makeCurrent_fc (t : Txn) (s : State) : (makeCurrent t s).fc = s.fc := rfl
@[simp] theorem makeCurrent_se (t : Txn) (s : State) : (makeCurrent t s).se = s.se := rfl
@[simp] theorem makeCurrent_st (t : Txn) (s : State) : (makeCurrent t s).tm.st = s.tm.st := rfl
@[simp] theorem makeCurrent_ph (t : Txn) (s : State) : (makeCurrent t s).tm.ph = s.tm.ph := rfl
@[simp] theorem makeCurrent_cur (t : Txn) (s : State) : (makeCurrent t s).tm.cur = some t := rfl
@[simp] theorem makeCurrent_hsf (t : Txn) (s : State) : (makeCurrent t s).tm.hsf = s.tm.hsf := rfl
@[simp] theorem makeCurrent_txframe (t : Txn) (s : State) : (makeCurrent t s).tm.txframe = s.tm.txframe := rfl
@[simp] theorem makeCurrent_hsreply (t : Txn) (s : State) : (makeCurrent t s).tm.hsreply = s.tm.hsreply := rfl
@[simp] theorem makeCurrent_cause (t : Txn) (s : State) : (makeCurrent t s).tm.cause = s.tm.cause := rfl
@[simp] theorem makeCurrent_tmr (t : Txn) (s : State) : (makeCurrent t s).tm.tmr = s.tm.tmr := rfl
@[simp] theorem makeCurrent_q (t : Txn) (s : State) : (makeCurrent t s).tm.q = s.tm.q.filter (fun x => x ≠ t) := rfl
@[simp] theorem makeCurrent_life (t : Txn) (s : State) : (makeCurrent t s).tm.life = s.tm.life := rfl
@[simp] theorem makeCurrent_ports (t : Txn) (s : State) : (makeCurrent t s).ports = s.ports := rfl
@[simp] theorem makeCurrent_seq (t : Txn) (s : State) : (makeCurrent t s).seq = s.seq := rfl
@[simp] theorem makeCurrent_pins (t : Txn) (s : State) : (makeCurrent t s).pins = s.pins := rfl
@[simp] theorem makeCurrent_sched (t : Txn) (s : State) : (makeCurrent t s).sched = s.sched := rfl

@[simp] theorem setOwnid_fc (i : NodeId) (s : State) : (setOwnid i s).fc = s.fc := rfl
@[simp] theorem setOwnid_ownid (i : NodeId) (s : State) : (setOwnid i s).se.ownid = some i := rfl
@[simp] theorem setOwnid_netkey (i : NodeId) (s : State) : (setOwnid i s).se.netkey = s.se.netkey := rfl
@[simp] theorem setOwnid_authkey (i : NodeId) (s : State) : (setOwnid i s).se.authkey = s.se.authkey := rfl
@[simp] theorem setOwnid_enckey (i : NodeId) (s : State) : (setOwnid i s).se.enckey = s.se.enckey := rfl
@[simp] theorem setOwnid_keyvalid (i : NodeId) (s : State) : (setOwnid i s).se.keyvalid = s.se.keyvalid := rfl
@[simp] theorem setOwnid_nt (i : NodeId) (s : State) : (setOwnid i s).se.nt = s.se.nt := rfl
@[simp] theorem setOwnid_tm (i : NodeId) (s : State) : (setOwnid i s).tm = s.tm := rfl
@[simp] theorem setOwnid_ports (i : NodeId) (s : State) : (setOwnid i s).ports = s.ports := rfl
@[simp] theorem setOwnid_seq (i : NodeId) (s : State) : (setOwnid i s).seq = s.seq := rfl
@[simp] theorem setOwnid_pins (i : NodeId) (s : State) : (setOwnid i s).pins = s.pins := rfl
@[simp] theorem setOwnid_sched (i : NodeId) (s : State) : (setOwnid i s).sched = s.sched := rfl

end Sys2Proof.Machine
end

