-- ==== Sys2Proof/Laws/Nonces.lean ====
section
/-! SUPPORT. The nonce table: what a look-up finds after each operation, that each operation keeps the canonical form, and
what the oldest entry is. -/

namespace Sys2Proof.Machine

/-- The canonical form of the nonce table: strictly rising keys (log entry 18). -/
def ntSorted (t : NonceTable) : Prop := t.Pairwise fun x y => keyRank x.1 < keyRank y.1

theorem keyRank_inj {a b : NonceKey} (h : keyRank a = keyRank b) : a = b := by
  obtain ⟨i, j⟩ := a
  obtain ⟨i', j'⟩ := b
  simp only [keyRank] at h
  have := j.isLt
  have := j'.isLt
  have h1 : i = i' := BitVec.eq_of_toNat_eq (by omega)
  have h2 : j = j' := BitVec.eq_of_toNat_eq (by omega)
  rw [h1, h2]

theorem ntFind_ntPut (k k' : NonceKey) (e : NonceEntry) (t : NonceTable) :
    ntFind k' (ntPut k e t) = if k' = k then some e else ntFind k' t := by
  induction t with
  | nil => by_cases h : k' = k <;> simp_all [ntPut, ntFind, eq_comm]
  | cons x rest ih =>
    obtain ⟨k0, e0⟩ := x
    simp only [ntPut]
    split
    · by_cases h : k' = k <;> simp_all [ntFind, eq_comm]
    · split
      · next h0 => subst h0; by_cases h : k' = k0 <;> simp_all [ntFind, eq_comm]
      · next h0 =>
        simp only [ntFind, ih]
        by_cases h : k' = k
        · subst h; simp [h0]
        · simp [h]

theorem ntFind_ntDelete (k k' : NonceKey) (t : NonceTable) :
    ntFind k' (ntDelete k t) = if k' = k then none else ntFind k' t := by
  induction t with
  | nil => simp [ntDelete, ntFind]
  | cons x rest ih =>
    obtain ⟨k0, e0⟩ := x
    simp only [ntDelete, List.filter_cons] at ih ⊢
    by_cases h0 : k0 = k
    · subst h0
      by_cases h : k' = k0
      · subst h; simpa using ih
      · simpa [ntFind, h, Ne.symm h] using ih
    · by_cases h : k' = k
      · subst h; simpa [ntFind, h0] using ih
      · simp only [h0, ne_eq, not_false_eq_true, decide_true, if_true, ntFind, ih, if_neg h]

theorem ntFind_ntSetFree (k k' : NonceKey) (v : Bool) (t : NonceTable) :
    ntFind k' (ntSetFree k v t) = if k' = k then (ntFind k t).map (fun e => { e with free := v }) else ntFind k' t := by
  induction t with
  | nil => simp [ntSetFree, ntFind]
  | cons x rest ih =>
    obtain ⟨k0, e0⟩ := x
    simp only [ntSetFree, List.map_cons] at ih ⊢
    by_cases h0 : k0 = k
    · subst h0
      by_cases h : k' = k0
      · subst h; simp [ntFind]
      · simpa [ntFind, h, Ne.symm h] using ih
    · by_cases h : k' = k
      · subst h; simpa [ntFind, h0] using ih
      · simp only [if_neg h0, ntFind, ih, if_neg h]

theorem mem_of_ntFind {k : NonceKey} {e : NonceEntry} {t : NonceTable} (h : ntFind k t = some e) : (k, e) ∈ t := by
  induction t with
  | nil => simp [ntFind] at h
  | cons x rest ih =>
    simp only [ntFind] at h
    split at h
    · next h0 =>
      cases h
      exact h0 ▸ List.mem_cons_self ..
    · exact List.mem_cons_of_mem _ (ih h)

theorem ntFind_of_mem {k : NonceKey} {e : NonceEntry} {t : NonceTable} (hs : ntSorted t) (h : (k, e) ∈ t) :
    ntFind k t = some e := by
  induction t with
  | nil => simp at h
  | cons x rest ih =>
    obtain ⟨k0, e0⟩ := x
    rw [ntSorted, List.pairwise_cons] at hs
    rcases List.mem_cons.mp h with h | h
    · simp_all [ntFind]
    · have hne : k0 ≠ k := by
        rintro rfl
        exact absurd (hs.1 _ h) (by simp)
      simp only [ntFind, if_neg hne]
      exact ih hs.2 h

theorem mem_ntPut {k : NonceKey} {e : NonceEntry} {t : NonceTable} {x : NonceKey × NonceEntry} (h : x ∈ ntPut k e t) :
    x = (k, e) ∨ x ∈ t := by
  induction t with
  | nil => simpa [ntPut] using h
  | cons y rest ih =>
    simp only [ntPut] at h
    split at h
    · simpa using h
    · split at h
      · rcases List.mem_cons.mp h with h | h
        · exact .inl h
        · exact .inr (List.mem_cons_of_mem _ h)
      · rcases List.mem_cons.mp h with h | h
        · exact .inr (h ▸ List.mem_cons_self ..)
        · exact (ih h).imp_right (List.mem_cons_of_mem _)

theorem ntSorted_ntPut {k : NonceKey} {e : NonceEntry} {t : NonceTable} (hs : ntSorted t) : ntSorted (ntPut k e t) := by
  induction t with
  | nil => simp [ntPut, ntSorted]
  | cons y rest ih =>
    obtain ⟨k0, e0⟩ := y
    have hs' := hs
    rw [ntSorted, List.pairwise_cons] at hs'
    simp only [ntPut]
    split
    · next h =>
      rw [ntSorted, List.pairwise_cons]
      refine ⟨fun a ha => ?_, hs⟩
      rcases List.mem_cons.mp ha with ha | ha
      · simpa [ha] using h
      · exact Nat.lt_trans h (hs'.1 a ha)
    · next h =>
      split
      · next h0 => subst h0; rw [ntSorted, List.pairwise_cons]; exact hs'
      · next h0 =>
        rw [ntSorted, List.pairwise_cons]
        refine ⟨fun a ha => ?_, ih hs'.2⟩
        rcases mem_ntPut ha with ha | ha
        · subst ha
          have : keyRank k0 ≠ keyRank k := fun hk => h0 (keyRank_inj hk)
          simp only
          omega
        · exact hs'.1 a ha

theorem ntSorted_ntDelete {k : NonceKey} {t : NonceTable} (hs : ntSorted t) : ntSorted (ntDelete k t) :=
  List.Pairwise.filter _ hs

theorem ntSorted_ntSetFree {k : NonceKey} {v : Bool} {t : NonceTable} (hs : ntSorted t) : ntSorted (ntSetFree k v t) := by
  unfold ntSorted ntSetFree
  rw [List.pairwise_map]
  refine hs.imp fun {a b} h => ?_
  split <;> split <;> simpa using h

/-- The oldest entry is an entry, and none has a smaller stamp. -/
theorem ntOldest_spec {t : NonceTable} {x : NonceKey × NonceEntry} (h : ntOldest t = some x) :
    x ∈ t ∧ ∀ y ∈ t, x.2.created ≤ y.2.created := by
  induction t generalizing x with
  | nil => simp [ntOldest] at h
  | cons z rest ih =>
    simp only [ntOldest] at h
    split at h
    · next h0 =>
      have hr : rest = [] := by
        cases rest with
        | nil => rfl
        | cons w r => simp only [ntOldest] at h0; split at h0 <;> (try split at h0) <;> simp at h0
      simp_all
    · next y h0 =>
      have hy := ih h0
      split at h
      · next hlt =>
        cases h
        refine ⟨List.mem_cons_of_mem _ hy.1, fun w hw => ?_⟩
        rcases List.mem_cons.mp hw with hw | hw
        · subst hw; omega
        · exact hy.2 w hw
      · next hlt =>
        cases h
        refine ⟨List.mem_cons_self .., fun w hw => ?_⟩
        rcases List.mem_cons.mp hw with hw | hw
        · subst hw; omega
        · have := hy.2 w hw; omega

theorem ntOldest_isNone {t : NonceTable} : ntOldest t = none ↔ t = [] := by
  cases t with
  | nil => simp [ntOldest]
  | cons z rest =>
    simp only [ntOldest]
    split
    · simp
    · split <;> simp

theorem mem_ntOf {i : NodeId} {t : NonceTable} {x : NonceKey × NonceEntry} : x ∈ ntOf i t ↔ x ∈ t ∧ x.1.issuer = i := by
  simp [ntOf]

theorem mem_ntFor {i r : NodeId} {t : NonceTable} {x : NonceKey × NonceEntry} : x ∈ ntFor i r t ↔ x ∈ t ∧ issuedFor i r x := by
  simp [ntFor, mem_ntOf, issuedFor, and_assoc]

theorem mem_ntFreeOf {i : NodeId} {t : NonceTable} {x : NonceKey × NonceEntry} :
    x ∈ ntFreeOf i t ↔ (x ∈ t ∧ x.1.issuer = i) ∧ x.2.free = true := by
  simp [ntFreeOf, mem_ntOf]

theorem mem_usedIds {i : NodeId} {t : NonceTable} {b : Byte} : b ∈ usedIds i t ↔ ∃ e, (NonceKey.mk i b, e) ∈ t := by
  simp only [usedIds, List.mem_map, mem_ntOf, Prod.exists]
  constructor
  · rintro ⟨⟨i', b'⟩, e, ⟨h, hi⟩, hb⟩
    simp only at hi hb
    exact ⟨e, hi ▸ hb ▸ h⟩
  · rintro ⟨e, h⟩
    exact ⟨_, e, ⟨h, rfl⟩, rfl⟩

theorem hasNonce_iff {i : NodeId} {t : NonceTable} :
    hasNonce i t = true ↔ ∃ x ∈ t, x.1.issuer = i ∧ x.2.free = true := by
  simp only [hasNonce, Bool.not_eq_true', List.isEmpty_eq_false_iff_exists_mem, mem_ntFreeOf]
  constructor
  · rintro ⟨x, ⟨h, hi⟩, hf⟩; exact ⟨x, h, hi, hf⟩
  · rintro ⟨x, h, hi, hf⟩; exact ⟨x, ⟨h, hi⟩, hf⟩

/-- A constrained draw answers an id that is not in use, whenever there is one. -/
theorem freshId_notMem {used : List Byte} {b : Byte} (h : ∃ x, x ∉ used) : freshId used b ∉ used := by
  obtain ⟨x, hx⟩ := h
  unfold freshId
  have hin : x ∈ (List.range 256).map fun i => b + toByte i := by
    rw [List.mem_map]
    refine ⟨(x - b).toNat, by simpa using (x - b).isLt, ?_⟩
    rw [toByte, BitVec.ofNat_toNat, BitVec.setWidth_eq]
    rw [BitVec.add_comm, BitVec.sub_add_cancel]
  cases hf : ((List.range 256).map fun i => b + toByte i).find? fun x => !used.contains x with
  | none =>
    rw [List.find?_eq_none] at hf
    exact absurd (hf x hin) (by simpa using hx)
  | some y =>
    have := List.find?_some hf
    simpa using this

theorem drawn_length (c : Config) (n : Nat) (s : State) : (drawn c n s).length = n := by simp [drawn]

/-- What storing a nonce writes. -/
theorem storeNonce_eq (issuer : NodeId) (nonce : Bytes) (receiver : NodeId) (free : Bool) (s : State) :
    storeNonce issuer nonce receiver free s =
      { s with se.nt := ntPut ⟨issuer, nonce.getD 0 0⟩ ⟨nonce, receiver, free, s.seq⟩ s.se.nt, seq := s.seq + 1 } := rfl

/-- No id of one issuer is stored twice. -/
theorem usedIds_nodup {own : NodeId} {t : NonceTable} (h : ntSorted t) : (usedIds own t).Nodup := by
  unfold usedIds ntOf List.Nodup
  rw [List.pairwise_map]
  have : (t.filter fun x => decide (x.1.issuer = own)).Pairwise fun x y => keyRank x.1 < keyRank y.1 := List.Pairwise.filter _ h
  refine this.imp_of_mem ?_
  intro a b ha hb hab he
  simp only [List.mem_filter, decide_eq_true_eq] at ha hb
  simp only [keyRank, ha.2, hb.2, he] at hab
  omega

/-- A table of one issuer is full when every id is stored. -/
theorem usedIds_full {own : NodeId} {t : NonceTable} (h : ntSorted t) : (usedIds own t).length = 256 ↔ ∀ x, x ∈ usedIds own t := by
  have hc : Fintype.card Byte = 256 := by
    rw [Fintype.card_congr (β := Fin 256) ⟨fun b : BitVec 8 => b.toFin, fun i => (BitVec.ofFin i : BitVec 8), fun _ => rfl, fun _ => rfl⟩, Fintype.card_fin]
  have hn := usedIds_nodup (own := own) h
  constructor
  · intro hl x
    have := (usedIds own t).toFinset.card_eq_iff_eq_univ.mp (by rw [List.toFinset_card_of_nodup hn, hl, hc])
    have hx : x ∈ (usedIds own t).toFinset := by rw [this]; exact Finset.mem_univ _
    simpa using hx
  · intro hx
    have : (usedIds own t).toFinset = Finset.univ := by ext x; simp [hx x]
    rw [← List.toFinset_card_of_nodup hn, this, Finset.card_univ, hc]

end Sys2Proof.Machine
end

