-- ==== Sys2Proof/Laws/Queue.lean ====
section
/-! SUPPORT. The send queue as a set, and its order: sorting permutes and sorts, what `nextTxn` takes, what an insertion
adds. -/

namespace Sys2Proof.Machine

/-- A strict order in which incomparability is transitive. -/
def weakOrder (lt : Txn → Txn → Bool) : Prop :=
  (∀ a b, lt a b = true → lt b a = false) ∧ ∀ a b c, lt b a = false → lt c b = false → lt c a = false

theorem insertBy_perm (lt : Txn → Txn → Bool) (x : Txn) (l : List Txn) : (insertBy lt x l).Perm (x :: l) := by
  induction l with
  | nil => rfl
  | cons y rest ih =>
    simp only [insertBy]
    split
    · rfl
    · exact ((ih.cons y).trans (List.Perm.swap x y rest))

theorem sortBy_perm (lt : Txn → Txn → Bool) (l : List Txn) : (sortBy lt l).Perm l := by
  induction l with
  | nil => rfl
  | cons x rest ih => exact (insertBy_perm lt x _).trans (ih.cons x)

theorem insertBy_sorted {lt : Txn → Txn → Bool} (h : weakOrder lt) {x : Txn} {l : List Txn}
    (hl : l.Pairwise fun a b => lt b a = false) : (insertBy lt x l).Pairwise fun a b => lt b a = false := by
  induction l with
  | nil => simp [insertBy]
  | cons y rest ih =>
    have hl' := List.pairwise_cons.mp hl
    simp only [insertBy]
    split
    · next hxy =>
      refine List.pairwise_cons.mpr ⟨fun z hz => ?_, hl⟩
      rcases List.mem_cons.mp hz with rfl | hz
      · exact h.1 _ _ hxy
      · exact h.2 x y z (h.1 _ _ hxy) (hl'.1 z hz)
    · next hxy =>
      refine List.pairwise_cons.mpr ⟨fun z hz => ?_, ih hl'.2⟩
      rcases List.mem_cons.mp ((insertBy_perm lt x rest).mem_iff.mp hz) with rfl | hz
      · simpa using hxy
      · exact hl'.1 z hz

theorem sortBy_sorted {lt : Txn → Txn → Bool} (h : weakOrder lt) (l : List Txn) :
    (sortBy lt l).Pairwise fun a b => lt b a = false := by
  induction l with
  | nil => simp [sortBy]
  | cons x rest ih => exact insertBy_sorted h ih

theorem sortsBefore_eq_true {p : HostPins} {a b : Txn} :
    sortsBefore p a b = true ↔ a.priority < b.priority ∨
      (a.priority = b.priority ∧ (rank p a < rank p b ∨ (rank p a = rank p b ∧ a.created < b.created))) := by
  simp [sortsBefore]

theorem sortsBefore_weakOrder (p : HostPins) : weakOrder (sortsBefore p) := by
  refine ⟨fun a b h => ?_, fun a b c h1 h2 => ?_⟩
  · rw [← Bool.not_eq_true, sortsBefore_eq_true]
    rw [sortsBefore_eq_true] at h
    omega
  · rw [← Bool.not_eq_true, sortsBefore_eq_true] at *
    omega

theorem inOrder_perm (p : HostPins) (ts : List Txn) : (inOrder p ts).Perm ts := sortBy_perm _ _

theorem inOrder_comparedList (p : HostPins) (ts : List Txn) : comparedList p ts (inOrder p ts) :=
  ⟨inOrder_perm p ts, sortBy_sorted (sortsBefore_weakOrder p) ts⟩

theorem inFreeOrder_perm (c : Config) (k : Nat) (ts : List Txn) : (inFreeOrder c k ts).Perm ts := sortBy_perm _ _

theorem mem_eligible {p : HostPins} {q : List Txn} {t : Txn} : t ∈ eligible p q ↔ t ∈ q ∧ isEligible p t = true := by
  simp [eligible]

/-- The transaction that is taken is queued and eligible, and no eligible one sorts before it. -/
theorem nextTxn_spec {s : State} {t : Txn} (h : nextTxn s = some t) :
    t ∈ s.tm.q ∧ isEligible s.pins t = true ∧
      ∀ x ∈ s.tm.q, isEligible s.pins x = true → sortsBefore s.pins x t = false := by
  unfold nextTxn at h
  obtain ⟨rest, hr⟩ := List.head?_eq_some_iff.mp h
  have hp := inOrder_perm s.pins (eligible s.pins s.tm.q)
  have hs := (inOrder_comparedList s.pins (eligible s.pins s.tm.q)).2
  have ht := mem_eligible.mp (hp.mem_iff.mp (hr ▸ List.mem_cons_self ..))
  refine ⟨ht.1, ht.2, fun x hx he => ?_⟩
  have hm := hp.mem_iff.mpr (mem_eligible.mpr ⟨hx, he⟩)
  rw [hr] at hm hs
  rcases List.mem_cons.mp hm with rfl | hm
  · rw [← Bool.not_eq_true, sortsBefore_eq_true]; omega
  · exact (List.pairwise_cons.mp hs).1 x hm

theorem nextTxn_eq_none {s : State} : nextTxn s = none ↔ ∀ x ∈ s.tm.q, isEligible s.pins x = false := by
  unfold nextTxn
  rw [List.head?_eq_none_iff]
  constructor
  · intro h x hx
    have hp := inOrder_perm s.pins (eligible s.pins s.tm.q)
    rw [h] at hp
    have := (List.Perm.nil_eq hp).symm
    by_contra hc
    have hm : x ∈ eligible s.pins s.tm.q := mem_eligible.mpr ⟨hx, by simpa using hc⟩
    rw [this] at hm
    exact absurd hm (List.not_mem_nil)
  · intro h
    have : eligible s.pins s.tm.q = [] := by
      rw [List.eq_nil_iff_forall_not_mem]
      intro x hx
      have := mem_eligible.mp hx
      simp [h x this.1] at this
    rw [this]
    rfl

theorem qInsert_perm (t : Txn) (l : List Txn) : (qInsert t l).Perm (t :: l) := by
  induction l with
  | nil => rfl
  | cons x rest ih =>
    simp only [qInsert]
    split
    · rfl
    · exact ((ih.cons x).trans (List.Perm.swap t x rest))

theorem mem_qInsert {t x : Txn} {l : List Txn} : x ∈ qInsert t l ↔ x = t ∨ x ∈ l := by
  rw [(qInsert_perm t l).mem_iff, List.mem_cons]

/-- An insertion keeps the order of the stamps. -/
theorem qInsert_sorted {t : Txn} {l : List Txn} (hl : l.Pairwise fun a b => a.created < b.created)
    (ht : ∀ x ∈ l, x.created ≠ t.created) : (qInsert t l).Pairwise fun a b => a.created < b.created := by
  induction l with
  | nil => simp [qInsert]
  | cons y rest ih =>
    have hl' := List.pairwise_cons.mp hl
    simp only [qInsert]
    split
    · next h =>
      refine List.pairwise_cons.mpr ⟨fun z hz => ?_, hl⟩
      rcases List.mem_cons.mp hz with rfl | hz
      · exact h
      · exact Nat.lt_trans h (hl'.1 z hz)
    · next h =>
      have hy := ht y (List.mem_cons_self ..)
      refine List.pairwise_cons.mpr ⟨fun z hz => ?_, ih hl'.2 fun x hx => ht x (List.mem_cons_of_mem _ hx)⟩
      rcases mem_qInsert.mp hz with rfl | hz
      · omega
      · exact hl'.1 z hz

end Sys2Proof.Machine
end

