-- ==== Sys2Proof/Laws/Transaction.lean ====
section
/-! SUPPORT. What each helper procedure of the transaction machine answers, said once: every later proof cites these and
unfolds none of the procedures (spec/44_transaction_fsm.md R244 to R270). -/

namespace Sys2Proof.Machine

/-- `Finalize` settles, reports and leaves TM idle. -/
theorem finalize_eq {s : State} {c : Txn} (h : s.tm.cur = some c) (o : TxnOutcome) :
    finalize o s = settledWith c o s := by
  simp only [finalize, h]
  rfl

/-- `Finalize` without a current transaction does nothing (log entry 14). -/
theorem finalize_none {s : State} (h : s.tm.cur = none) (o : TxnOutcome) : finalize o s = s := by
  simp only [finalize, h]

/-- `Fail` is the retry policy. -/
theorem fail_eq {s : State} {c : Txn} (h : s.tm.cur = some c) (cause : ErrCode) :
    fail cause s = failedWith c (hsfOf s.tm.st cause) cause s := by
  simp only [fail, h, failedWith]
  split
  · rfl
  · rw [finalize_eq (c := oneMore c) (recordFailure_cur ..)]
    rfl

theorem fail_none {s : State} (h : s.tm.cur = none) (cause : ErrCode) : fail cause s = s := by simp only [fail, h]

theorem serialize_ok {t f : Byte} {p : Bytes} (h : p.length ≤ 252) : serialize t f p = .ok (frameBytes t f p) := by
  have : ¬ p.length > Config.maxPayload := by simp only [Config.maxPayload]; omega
  simp [serialize, this]

theorem serialize_error {t f : Byte} {p : Bytes} (h : 252 < p.length) : serialize t f p = .error .precondition := by
  have : p.length > Config.maxPayload := by simp only [Config.maxPayload]; omega
  simp [serialize, this]

/-- `EnterHandshake` sends the handshake message, serialized anew. -/
theorem enterHandshake_eq {s : State} {c : Txn} {h : Message} (hc : s.tm.cur = some c) (hh : c.hsMsg = some h)
    (hl : h.payload.length ≤ 252) : enterHandshake s = attempting .handshake (frameOf h h.payload) s := by
  simp only [enterHandshake, hc, hh, serialize_ok hl]
  rfl

/-- `EnterExecute` with a latched frame sends it again unchanged. -/
theorem enterExecute_latched (cfg : Config) {s : State} {c : Txn} {f : Bytes} (hc : s.tm.cur = some c)
    (hf : s.tm.txframe = some f) : enterExecute cfg s = attempting .execute f s := by
  simp only [enterExecute, hc, hf]
  rfl

/-- `EnterExecute` of a transaction that is not secure builds, latches and sends its own frame. -/
theorem enterExecute_plain (cfg : Config) {s : State} {c : Txn} (hc : s.tm.cur = some c) (hf : s.tm.txframe = none)
    (hs : c.secure = false) (hl : c.msg.payload.length ≤ 252) :
    enterExecute cfg s = executing c c.msg.payload s := by
  simp only [enterExecute, hc, hf, materialize, hs, if_true, sendBuilt, serialize_ok hl]
  rfl

/-- What `SE.SEAL` does when a check fails: nothing. -/
theorem sealMessage_error (cfg : Config) {r : NodeId} {i : Byte} {p : Bytes} {n : Option Byte} {s : State} {e : ErrCode}
    (h : sealChecks r p n s = .error e) : sealMessage cfg r i p n s = (s, .error e) := by
  simp only [sealMessage, h]

/-- What `SE.SEAL` does when every check passes: the nonce is gone, eight bytes are drawn, the four parts are answered. -/
theorem sealMessage_ok (cfg : Config) {r : NodeId} {i : Byte} {p : Bytes} {n : Option Byte} {s : State} {own : NodeId}
    {k : NonceKey} {e : NonceEntry} (h : sealChecks r p n s = .ok (own, k, e)) :
    sealMessage cfg r i p n s =
      ({ s with se.nt := ntDelete k s.se.nt, ports.drawn := s.ports.drawn + 8 },
       .ok (sealedOf s.se own r i k.id (drawn cfg 8 s) e.nonce p)) := by
  simp only [sealMessage, h]
  rfl

/-- The only error of the checks of `SE.SEAL` that names a nonce comes last, after the key, the node id and the length. -/
theorem sealChecks_ok {r : NodeId} {p : Bytes} {n : Option Byte} {s : State} {own : NodeId} {k : NonceKey} {e : NonceEntry}
    (h : sealChecks r p n s = .ok (own, k, e)) :
    s.se.keyvalid = true ∧ s.se.ownid = some own ∧ p.length ≤ 255 ∧ sealKey own r n s.se.nt = some (k, e) := by
  unfold sealChecks at h
  split at h
  · simp at h
  · next hk =>
    split at h
    · simp at h
    · next ho =>
      split at h
      · simp at h
      · split at h
        · simp at h
        · next hs =>
          simp only [Except.ok.injEq, Prod.mk.injEq] at h
          obtain ⟨rfl, rfl, rfl⟩ := h
          exact ⟨by simpa using hk, ho, by omega, hs⟩

/-- `PrimitiveSuccess` in `execute`. -/
theorem primitiveSuccess_execute (cfg : Config) {s : State} {c : Txn} (hs : s.tm.st = .execute) (hc : s.tm.cur = some c)
    (r : Option Message) :
    primitiveSuccess cfg r s =
      if c.expectsUpdate then { s with tm.st := .waitForUpdate, tm.ph := .none, tm.tmr := .upd }
      else settledWith c (.success r) s := by
  have he : primitiveSuccess cfg r s = executeSuccess r (endPrimitive s) := by simp only [primitiveSuccess, hs]
  have hc' : (endPrimitive s).tm.cur = some c := hc
  rw [he, executeSuccess, hc']
  dsimp only
  split
  · rfl
  · rw [finalize_eq (c := c) (by simpa using hc)]
    rfl

/-- `PrimitiveSuccess` in `handshake`. -/
theorem primitiveSuccess_handshake (cfg : Config) {s : State} (hs : s.tm.st = .handshake) (r : Option Message) :
    primitiveSuccess cfg r s = handshakeSuccess cfg r (endPrimitive s) := by
  simp only [primitiveSuccess, hs]

theorem macFor_eq (key sn rn : Bytes) (i : Byte) (a b : NodeId) (ct : Bytes) :
    macFor key sn rn i a b ct = macOf key (authData sn rn i a b ct) := by
  simp [macFor, macOf, authData, toByte, Config.macLen]

/-- `Materialize` of a transaction that is not secure. -/
theorem materialize_plain (cfg : Config) {c : Txn} {s : State} (h : c.secure = false) :
    materialize cfg c s = (s, .ok c.msg.payload) := by
  simp only [materialize, h, if_true]

/-- `Materialize` of a secure transaction without a node. -/
theorem materialize_noNode (cfg : Config) {c : Txn} {s : State} (h : c.secure = true) (hn : c.node = none) :
    materialize cfg c s = (s, .error .precondition) := by
  simp [materialize, h, hn]

/-- `Materialize` of a secure transaction, up to what sealing answers. -/
theorem materialize_sealError (cfg : Config) {c : Txn} {s : State} {n : NodeId} {e : ErrCode} (h : c.secure = true)
    (hn : c.node = some n) (hk : sealChecks n c.secPlain none s = .error e) : materialize cfg c s = (s, .error e) := by
  simp [materialize, h, hn, sealMessage_error cfg hk]

/-- `Materialize` of a secure transaction whose sealing succeeds: the nonce is spent whether or not the payload fits. -/
theorem materialize_sealed {c : Txn} {s : State} {n own : NodeId} {k : NonceKey} {e : NonceEntry} (h : c.secure = true)
    (hn : c.node = some n) (hk : sealChecks n c.secPlain none s = .ok (own, k, e)) :
    materialize Config.host c s =
      (spent k s, if (sealedPayload c own n k e s).length > 252 then .error .precondition
                  else .ok (sealedPayload c own n k e s)) := by
  have hp : sealedPayload c own n k e s =
      let p := sealedOf s.se own n c.secCmd k.id (drawn Config.host 8 s) e.nonce c.secPlain
      Config.host.secLayout c p.senderNonce p.ciphertext p.nonceId p.mac := by
    simp only [sealedPayload, sealedOf, macFor_eq]
    rfl
  simp only [materialize, h, hn, sealMessage_ok Config.host hk, hp, Config.maxPayload, Bool.true_eq_false, if_false]
  split <;> (rename_i hl; simp only [hl, if_true, if_false]; rfl)

theorem failedWith_setSt (c : Txn) (hs : Bool) (e : ErrCode) (st : TmState) (s : State) :
    failedWith c hs e (setSt st s) = failedWith c hs e s := rfl

theorem settledWith_setSt (c : Txn) (o : TxnOutcome) (st : TmState) (s : State) :
    settledWith c o (setSt st s) = settledWith c o s := rfl

/-- What `EnterExecute` does with an error of `Materialize`, in any state whose current transaction is `c`. -/
theorem buildError_eq {s : State} {c : Txn} (hc : s.tm.cur = some c) (e : ErrCode) :
    buildError e c s =
      if e = .noNonce ∧ c.hsMsg.isSome then failedWith c true .noNonce s else settledWith c (.failure e none) s := by
  unfold buildError
  split
  · rw [fail_eq hc]
    have : hsfOf s.tm.st .noNonce = true := by simp [hsfOf]
    rw [this]
  · rw [finalize_eq hc]

/-- `EnterExecute` on any path through `Materialize` that ends in an error. -/
theorem enterExecute_error (cfg : Config) {s s' : State} {c : Txn} {e : ErrCode} (hc : s.tm.cur = some c)
    (hf : s.tm.txframe = none) (hm : materialize cfg c (setSt .execute s) = (s', .error e)) (hc' : s'.tm.cur = some c) :
    enterExecute cfg s =
      if e = .noNonce ∧ c.hsMsg.isSome then failedWith c true .noNonce s' else settledWith c (.failure e none) s' := by
  simp only [enterExecute, hc, hf, hm, buildError_eq hc']

/-- The checks of sealing, by what the state holds. -/
theorem sealChecks_noKey {r : NodeId} {p : Bytes} {n : Option Byte} {s : State} (h : s.se.keyvalid = false) :
    sealChecks r p n s = .error .noKey := by simp [sealChecks, h]

theorem sealChecks_precondition {r : NodeId} {p : Bytes} {n : Option Byte} {s : State} (h : s.se.keyvalid = true)
    (hp : s.se.ownid = none ∨ p.length > 255) : sealChecks r p n s = .error .precondition := by
  simp only [sealChecks, h, Bool.true_eq_false, if_false]
  split
  · rfl
  · next ho =>
    rcases hp with hp | hp
    · rw [ho] at hp; simp at hp
    · rw [if_pos hp]

theorem sealChecks_noNonce {r own : NodeId} {p : Bytes} {n : Option Byte} {s : State} (h : s.se.keyvalid = true)
    (ho : s.se.ownid = some own) (hp : p.length ≤ 255) (hk : sealKey own r n s.se.nt = none) :
    sealChecks r p n s = .error .noNonce := by
  have : ¬ p.length > 255 := by omega
  simp only [sealChecks, h, Bool.true_eq_false, if_false, ho, if_neg this, hk]

theorem sealChecks_found {r own : NodeId} {p : Bytes} {n : Option Byte} {s : State} {k : NonceKey} {e : NonceEntry}
    (h : s.se.keyvalid = true) (ho : s.se.ownid = some own) (hp : p.length ≤ 255)
    (hk : sealKey own r n s.se.nt = some (k, e)) : sealChecks r p n s = .ok (own, k, e) := by
  have : ¬ p.length > 255 := by omega
  simp only [sealChecks, h, Bool.true_eq_false, if_false, ho, if_neg this, hk]

/-- The nonce that `SE.SEAL` takes without being told one: the oldest that the receiver issued for
this node, if there is any. -/
theorem sealKey_none {own r : NodeId} {t : NonceTable} :
    (sealKey own r none t = none ↔ ∀ x ∈ t, ¬ issuedFor r own x) ∧
      ∀ x, sealKey own r none t = some x → oldestFor r own t x := by
  constructor
  · simp only [sealKey, ntOldest_isNone, List.eq_nil_iff_forall_not_mem, mem_ntFor, not_and]
  · intro x h
    have := ntOldest_spec h
    exact ⟨(mem_ntFor.mp this.1).1, (mem_ntFor.mp this.1).2, fun y hy hi => this.2 y (mem_ntFor.mpr ⟨hy, hi⟩)⟩

/-- `EnterExecute`, all of it. -/
theorem enterExecute_spec {s : State} {c : Txn} (hc : s.tm.cur = some c) :
    entersExecute c s (enterExecute Config.host s) := by
  refine ⟨fun f hf => enterExecute_latched _ hc hf, fun hf hs hl => enterExecute_plain _ hc hf hs hl, fun hf hs => ⟨?_, ?_⟩⟩
  · intro hn
    rw [enterExecute_error _ hc hf (materialize_noNode _ hs hn) hc]
    rfl
  · intro n hn
    refine ⟨fun hk => ?_, fun hk hp => ?_, fun own hk ho hp => ⟨fun h => ?_, fun h => ?_⟩⟩
    · rw [enterExecute_error _ hc hf (materialize_sealError _ hs hn (sealChecks_noKey hk)) hc]
      rfl
    · rw [enterExecute_error _ hc hf (materialize_sealError _ hs hn (sealChecks_precondition hk hp)) hc]
      rfl
    · have hkey := sealKey_none.1.mpr h
      have hch : sealChecks n c.secPlain none (setSt .execute s) = .error .noNonce :=
        sealChecks_noNonce (own := own) hk ho hp hkey
      rw [enterExecute_error _ hc hf (materialize_sealError _ hs hn hch) hc]
      simp only [true_and]
      rfl
    · cases hkey : sealKey own n none s.se.nt with
      | none => exact absurd (sealKey_none.1.mp hkey) (by push Not; exact h)
      | some x =>
        obtain ⟨k, e⟩ := x
        have hch : sealChecks n c.secPlain none (setSt .execute s) = .ok (own, k, e) :=
          sealChecks_found hk ho hp hkey
        refine ⟨k, e, sealKey_none.2 _ hkey, ?_⟩
        have hm := materialize_sealed (c := c) hs hn hch
        have hp' : sealedPayload c own n k e (setSt .execute s) = sealedPayload c own n k e s := rfl
        rw [hp'] at hm
        split
        · next hl =>
          rw [if_pos hl] at hm
          rw [enterExecute_error _ hc hf hm hc]
          rfl
        · next hl =>
          rw [if_neg hl] at hm
          simp only [enterExecute, hc, hf, hm, sendBuilt, serialize_ok (by omega : (sealedPayload c own n k e s).length ≤ 252)]
          rfl

/-- Reporting a list of transactions adds their events, in its order. -/
theorem reportAll_eq (o : TxnOutcome) (ts : List Txn) (s : State) :
    reportAll o ts s = { s with ports.events := s.ports.events ++ ts.map (fun t => Event.txnDone t.id o) } := by
  induction ts generalizing s with
  | nil => simp [reportAll]
  | cons t rest ih =>
    have : reportAll o (t :: rest) s = reportAll o rest (report o t s) := rfl
    rw [this, ih]
    simp [report, emit, doneEvent, settle]

theorem hsfOf_ne {st : TmState} {e : ErrCode} (h : e ≠ .noNonce) : hsfOf st e = decide (st = .handshake) := by
  have : (e == ErrCode.noNonce) = false := by simpa using h
  rw [hsfOf, this, Bool.or_false, Bool.eq_iff_iff]; simp

theorem isEligible_iff {p : HostPins} {t : Txn} : isEligible p t = true ↔ awake p t := by
  unfold isEligible awake asleep
  cases t.node <;> simp

theorem idInUse_iff {i : TxnId} {r : TmRegs} : idInUse i r = true ↔ i ∈ unsettledIds r := by
  unfold idInUse unsettledIds
  cases r.cur with
  | none => simp
  | some x =>
    simp only [List.mem_append, List.mem_map, Bool.or_eq_true, beq_iff_eq, List.any_eq_true, Option.toList_some, List.mem_singleton, exists_eq_left]
    exact or_comm

end Sys2Proof.Machine
end

