-- ==== Sys2Proof/Laws/Frame.lean ====
section
/-! SUPPORT. What no helper procedure of the transaction machine and no wire symbol touches, said once for each
(spec/44_transaction_fsm.md R244 to R268, spec/40_frame_decode.md R112 to R121). -/

namespace Sys2Proof.Machine

/-- What every procedure of the transaction machine leaves: the receive side of FC, the node id and the keys, the queue,
`LIFE`, the line, the replies, the host predicates and the schedule are unchanged; `TXQ` and the events are only added to;
`SEQ` never counts down. -/
structure ProcFrame (s t : State) : Prop where
  rxbuf : t.fc.rxbuf = s.fc.rxbuf
  rxtmr : t.fc.rxtmr = s.fc.rxtmr
  ownid : t.se.ownid = s.se.ownid
  netkey : t.se.netkey = s.se.netkey
  authkey : t.se.authkey = s.se.authkey
  enckey : t.se.enckey = s.se.enckey
  keyvalid : t.se.keyvalid = s.se.keyvalid
  q : t.tm.q = s.tm.q
  life : t.tm.life = s.tm.life
  wire : t.ports.wire = s.ports.wire
  replies : t.ports.replies = s.ports.replies
  choices : t.ports.choices = s.ports.choices
  pins : t.pins = s.pins
  sched : t.sched = s.sched
  txq : s.fc.txq <+: t.fc.txq
  events : s.ports.events <+: t.ports.events
  seq : s.seq ≤ t.seq

theorem ProcFrame.refl (s : State) : ProcFrame s s := by constructor <;> rfl

theorem ProcFrame.trans {s t u : State} (h : ProcFrame s t) (h' : ProcFrame t u) : ProcFrame s u where
  rxbuf := h'.rxbuf.trans h.rxbuf
  rxtmr := h'.rxtmr.trans h.rxtmr
  ownid := h'.ownid.trans h.ownid
  netkey := h'.netkey.trans h.netkey
  authkey := h'.authkey.trans h.authkey
  enckey := h'.enckey.trans h.enckey
  keyvalid := h'.keyvalid.trans h.keyvalid
  q := h'.q.trans h.q
  life := h'.life.trans h.life
  wire := h'.wire.trans h.wire
  replies := h'.replies.trans h.replies
  choices := h'.choices.trans h.choices
  pins := h'.pins.trans h.pins
  sched := h'.sched.trans h.sched
  txq := h.txq.trans h'.txq
  events := h.events.trans h'.events
  seq := Nat.le_trans h.seq h'.seq

/-- A procedure that writes registers of TM, of the nonce table or of the random port only. -/
theorem ProcFrame.of_tm {s t : State} (hf : t.fc = s.fc) (hse : t.se = { s.se with nt := t.se.nt })
    (hq : t.tm.q = s.tm.q) (hl : t.tm.life = s.tm.life) (hs : s.seq ≤ t.seq)
    (hp : t.ports = { s.ports with drawn := t.ports.drawn }) (hpi : t.pins = s.pins) (hsc : t.sched = s.sched) :
    ProcFrame s t := by
  constructor <;> first
    | assumption
    | rw [hf]
    | rw [hse]
    | rw [hp]

theorem procFrame_settledWith (c : Txn) (o : TxnOutcome) (s : State) : ProcFrame s (settledWith c o s) := by
  constructor <;> first | rfl | exact List.prefix_refl _ | exact List.prefix_append _ _

theorem procFrame_failedWith (c : Txn) (hs : Bool) (e : ErrCode) (s : State) : ProcFrame s (failedWith c hs e s) := by
  unfold failedWith
  split
  · exact ProcFrame.of_tm rfl rfl rfl rfl (Nat.le_refl _) rfl rfl rfl
  · exact procFrame_settledWith c _ s

theorem procFrame_finalize (o : TxnOutcome) (s : State) : ProcFrame s (finalize o s) := by
  cases hc : s.tm.cur with
  | none => rw [finalize_none hc]; exact ProcFrame.refl s
  | some c => rw [finalize_eq hc]; exact procFrame_settledWith c o s

theorem procFrame_fail (e : ErrCode) (s : State) : ProcFrame s (fail e s) := by
  cases hc : s.tm.cur with
  | none => rw [fail_none hc]; exact ProcFrame.refl s
  | some c => rw [fail_eq hc]; exact procFrame_failedWith c _ e s

theorem procFrame_startAttempt (f : Bytes) (s : State) : ProcFrame s (startAttempt f s) := by
  constructor <;> first | rfl | exact List.prefix_refl _ | exact List.prefix_append _ _

theorem procFrame_setSt (st : TmState) (s : State) : ProcFrame s (setSt st s) :=
  ProcFrame.of_tm rfl rfl rfl rfl (Nat.le_refl _) rfl rfl rfl

theorem procFrame_enterHandshake (s : State) : ProcFrame s (enterHandshake s) := by
  unfold enterHandshake
  split
  · exact ProcFrame.refl s
  · split
    · exact ProcFrame.refl s
    · split
      · exact (procFrame_setSt .handshake s).trans (procFrame_startAttempt _ _)
      · exact (procFrame_setSt .handshake s).trans (procFrame_finalize _ _)

theorem procFrame_materialize (cfg : Config) (t : Txn) (s : State) : ProcFrame s (materialize cfg t s).1 := by
  unfold materialize
  split
  · exact ProcFrame.refl s
  · split
    · exact ProcFrame.refl s
    · next n hn =>
      cases hk : sealChecks n t.secPlain none s with
      | error e => rw [sealMessage_error cfg hk]; exact ProcFrame.refl s
      | ok x =>
        obtain ⟨own, k, e⟩ := x
        rw [sealMessage_ok cfg hk]
        dsimp only
        split <;> exact ProcFrame.of_tm rfl rfl rfl rfl (Nat.le_refl _) rfl rfl rfl

theorem procFrame_buildError (e : ErrCode) (t : Txn) (s : State) : ProcFrame s (buildError e t s) := by
  unfold buildError
  split
  · exact procFrame_fail _ s
  · exact procFrame_finalize _ s

theorem procFrame_sendBuilt (t : Txn) (p : Bytes) (s : State) : ProcFrame s (sendBuilt t p s) := by
  unfold sendBuilt
  split
  · next f _ =>
    have h : ProcFrame s (latchFrame f s) := ProcFrame.of_tm rfl rfl rfl rfl (Nat.le_refl _) rfl rfl rfl
    exact h.trans (procFrame_startAttempt _ _)
  · exact procFrame_buildError _ t s

theorem procFrame_enterExecute (cfg : Config) (s : State) : ProcFrame s (enterExecute cfg s) := by
  unfold enterExecute
  split
  · exact ProcFrame.refl s
  · next t _ =>
    split
    · exact (procFrame_setSt .execute s).trans (procFrame_startAttempt _ _)
    · have h := (procFrame_setSt .execute s).trans (procFrame_materialize cfg t (setSt .execute s))
      revert h
      rcases materialize cfg t (setSt .execute s) with ⟨s', p | e⟩
      · exact fun h => h.trans (procFrame_buildError _ t s')
      · exact fun h => h.trans (procFrame_sendBuilt t _ s')

theorem procFrame_storeReplyNonce (cfg : Config) (r : Option Message) (s : State) :
    ProcFrame s (storeReplyNonce cfg r s) := by
  unfold storeReplyNonce
  split
  · exact ProcFrame.of_tm rfl rfl rfl rfl (Nat.le_succ _) rfl rfl rfl
  · exact ProcFrame.refl s

theorem procFrame_handshakeSuccess (cfg : Config) (r : Option Message) (s : State) :
    ProcFrame s (handshakeSuccess cfg r s) := by
  have h : ProcFrame s (latchReply r s) := ProcFrame.of_tm rfl rfl rfl rfl (Nat.le_refl _) rfl rfl rfl
  exact (h.trans (procFrame_storeReplyNonce cfg r _)).trans (procFrame_enterExecute cfg _)

theorem procFrame_primitiveSuccess (cfg : Config) (r : Option Message) (s : State) :
    ProcFrame s (primitiveSuccess cfg r s) := by
  have h : ProcFrame s (endPrimitive s) := ProcFrame.of_tm rfl rfl rfl rfl (Nat.le_refl _) rfl rfl rfl
  unfold primitiveSuccess
  split
  · exact h.trans (procFrame_handshakeSuccess cfg r _)
  · refine h.trans ?_
    unfold executeSuccess
    split
    · exact ProcFrame.refl _
    · split
      · exact ProcFrame.of_tm rfl rfl rfl rfl (Nat.le_refl _) rfl rfl rfl
      · exact procFrame_finalize _ _
  · exact ProcFrame.refl s
  · exact ProcFrame.refl s
  · exact ProcFrame.refl s

theorem procFrame_emit (e : Event) (s : State) : ProcFrame s (emit e s) := by
  constructor <;> first | rfl | exact List.prefix_refl _ | exact List.prefix_append _ _

theorem procFrame_linkAck (cfg : Config) (s : State) : ProcFrame s (linkAck cfg s) := by
  unfold linkAck
  split
  · split
    · exact procFrame_primitiveSuccess cfg none s
    · exact ProcFrame.of_tm rfl rfl rfl rfl (Nat.le_refl _) rfl rfl rfl
  · exact ProcFrame.refl s

theorem procFrame_linkNak (s : State) : ProcFrame s (linkNak s) := by
  unfold linkNak
  split
  · exact procFrame_fail _ s
  · exact ProcFrame.refl s

theorem procFrame_linkCan (s : State) : ProcFrame s (linkCan s) := by
  unfold linkCan
  split
  · exact procFrame_fail _ s
  · exact ProcFrame.refl s

theorem procFrame_msg (cfg : Config) (m : Message) (s : State) : ProcFrame s (msg cfg m s) := by
  have hr : ProcFrame s (msgInReply cfg m s) := by
    unfold msgInReply
    split
    · exact procFrame_primitiveSuccess cfg _ s
    · exact ProcFrame.refl s
    · exact procFrame_fail _ s
    · exact procFrame_emit _ s
  have hu : ProcFrame s (msgInUpdate cfg m s) := by
    unfold msgInUpdate
    split
    · exact procFrame_emit _ s
    · split
      · exact procFrame_finalize _ s
      · exact procFrame_emit _ s
  unfold msg
  split
  · split
    · exact hr
    · exact procFrame_emit _ s
  · split
    · exact hr
    · exact procFrame_emit _ s
  · exact hu
  · exact procFrame_emit _ s
  · exact procFrame_emit _ s

/-- The bytes a parse outcome takes off the front of the buffer. -/
def outcomeLength (o : ParseOutcome) : Nat :=
  match o with
  | .incomplete => 0
  | .skip n => n
  | .frame _ n => n
  | .invalid _ n => n

theorem lineLength_eq (buf : Bytes) : lineLength buf = outcomeLength (tryParse buf) := by
  unfold lineLength outcomeLength
  cases tryParse buf <;> rfl

/-- FC's own part of a symbol: its bytes are off the front of `RXBUF`, and FC's answer is queued. -/
def linkPart (o : ParseOutcome) (s : State) : State :=
  { s with fc := { s.fc with rxbuf := s.fc.rxbuf.drop (outcomeLength o), txq := s.fc.txq ++ linkAnswer o } }

/-- A symbol does FC's part first; the rest is a procedure of the transaction machine, or an event. -/
theorem procFrame_handleOutcome (cfg : Config) (o : ParseOutcome) (s : State) :
    ProcFrame (linkPart o s) (handleOutcome cfg o s) := by
  have hq (a : Bytes) : a ++ [] = a := List.append_nil a
  match o with
  | .incomplete => simp only [linkPart, linkAnswer, hq, outcomeLength, List.drop_zero]; exact ProcFrame.refl s
  | .skip n => simp only [linkPart, linkAnswer, hq]; exact ProcFrame.refl _
  | .frame .ack n => simp only [linkPart, linkAnswer, hq]; exact procFrame_linkAck cfg (consume n s)
  | .frame .nak n => simp only [linkPart, linkAnswer, hq]; exact procFrame_linkNak (consume n s)
  | .frame .can n => simp only [linkPart, linkAnswer, hq]; exact procFrame_linkCan (consume n s)
  | .frame (.data d) n =>
    change ProcFrame (acceptFrame n s) (dispatchData cfg n d s)
    unfold dispatchData
    split
    · exact procFrame_msg cfg _ _
    · exact procFrame_emit _ _
  | .invalid .checksum n => exact ProcFrame.refl (rejectFrame n s)
  | .invalid .length n => exact ProcFrame.refl (rejectFrame n s)

/-- A decoded Data frame has the length its payload says. -/
theorem tryParse_data_length {buf : Bytes} {d : DataFrame} {n : Nat} (h : tryParse buf = .frame (.data d) n) :
    frameLength d.payload = n := by
  match buf with
  | [] => simp [tryParse] at h
  | b :: rest =>
    by_cases hb : b = sofByte
    · subst hb
      match rest with
      | [] => exact absurd h (by rw [show tryParse [sofByte] = .incomplete by decide]; simp)
      | len :: rest =>
        rw [tryParse_sof] at h
        split at h
        · simp at h
        · next hl =>
          unfold parseData at h
          split at h
          · simp at h
          · split at h
            · simp at h
            · simp only [ParseOutcome.frame.injEq, Frame.data.injEq] at h
              obtain ⟨rfl, rfl⟩ := h
              simp only [frameLength, slice, List.length_take, List.length_drop, List.length_cons]
              omega
    · exfalso
      simp only [tryParse] at h
      split at h
      · simp at h
      · split at h
        · simp at h
        · split at h
          · simp at h
          · simp at h

/-- The length byte of an invalid frame is the second byte of the buffer. -/
theorem tryParse_invalid_length {buf : Bytes} {r : InvalidReason} {n : Nat} (h : tryParse buf = .invalid r n) :
    (buf.getD 1 0).toNat + 2 = n := by
  match buf with
  | [] => simp [tryParse] at h
  | b :: rest =>
    by_cases hb : b = sofByte
    · subst hb
      match rest with
      | [] => exact absurd h (by rw [show tryParse [sofByte] = .incomplete by decide]; simp)
      | len :: rest =>
        rw [tryParse_sof] at h
        split at h
        · simp at h
        · unfold parseData at h
          split at h
          · simp only [ParseOutcome.invalid.injEq] at h; exact h.2
          · split at h
            · simp only [ParseOutcome.invalid.injEq] at h; exact h.2
            · simp at h
    · exfalso
      simp only [tryParse] at h
      split at h
      · simp at h
      · split at h
        · simp at h
        · split at h
          · simp at h
          · simp at h

/-- A control frame takes one byte. -/
theorem tryParse_frame_one {buf : Bytes} {f : Frame} {n : Nat} (h : tryParse buf = .frame f n) (hf : ∀ d, f ≠ .data d) :
    n = 1 := by
  match buf with
  | [] => simp [tryParse] at h
  | b :: rest =>
    by_cases hb : b = sofByte
    · subst hb
      match rest with
      | [] => exact absurd h (by rw [show tryParse [sofByte] = .incomplete by decide]; simp)
      | len :: rest =>
        rw [tryParse_sof] at h
        split at h
        · simp at h
        · unfold parseData at h
          split at h
          · simp at h
          · split at h
            · simp at h
            · simp only [ParseOutcome.frame.injEq] at h
              exact absurd h.1.symm (hf _)
    · have := (tryParse_control rest hb).2
      rw [lineLength_eq, h] at this
      exact this

/-- The instruction of the symbol at the front of a buffer does what the receive loop does with that symbol. -/
theorem exec_symbol {buf : Bytes} {i : Instr} (h : decodeLine buf = .ok i) (s : State) :
    exec i s = .next (handleOutcome Config.host (tryParse buf) s) := by
  unfold decodeLine at h
  split at h
  · simp at h
  · next ho =>
    cases h
    have hn : outcomeLength (tryParse buf) = 1 := by
      rw [← lineLength_eq]
      match buf with
      | [] => simp [tryParse] at ho
      | b :: rest =>
        by_cases hb : b = sofByte
        · subst hb
          match rest with
          | [] => exact absurd ho (by rw [show tryParse [sofByte] = .incomplete by decide]; simp)
          | len :: rest =>
            rw [tryParse_sof] at ho
            split at ho
            · simp at ho
            · unfold parseData at ho
              split at ho
              · simp at ho
              · split at ho <;> simp at ho
        · exact (tryParse_control rest hb).2
    rw [ho] at hn ⊢
    simp only [outcomeLength] at hn
    subst hn
    rfl
  · next ho => cases h; rw [ho, tryParse_frame_one ho (by simp)]; rfl
  · next ho => cases h; rw [ho, tryParse_frame_one ho (by simp)]; rfl
  · next ho => cases h; rw [ho, tryParse_frame_one ho (by simp)]; rfl
  · next d n ho =>
    cases h
    have hn := tryParse_data_length ho
    rw [ho]
    simp only [handleOutcome, dispatchData, dataInstr]
    by_cases h1 : d.type = Config.typeReq
    · simp only [h1, if_true, true_or, exec, execDataReq, hn]
    · by_cases h2 : d.type = Config.typeRes
      · have : ¬ Config.typeRes = Config.typeReq := by decide
        simp only [h2, this, if_true, if_false, or_true, exec, execDataRes, hn]
      · simp only [h1, h2, if_false, or_self, exec, execDataOther, hn]
  · next n ho =>
    cases h
    have := tryParse_invalid_length ho
    rw [ho]
    simp only [exec, execDataCsfail, this, handleOutcome]
  · next n ho =>
    cases h
    have := tryParse_invalid_length ho
    rw [ho]
    simp only [exec, execDataBadlen, this, handleOutcome]

end Sys2Proof.Machine
end

