-- ==== Sys2Proof/Laws/PerInstr.lean ====
section
/-! SUPPORT. The family `EncodingRow`: every instruction is encoded in the format of its row of spec/opcode_table.json, and
its first byte is the row's (spec/30_encoding.md R81, R82, R92 to R94). -/

namespace Sys2Proof.Laws

/-- The formats of spec/opcode_table.json. -/
inductive RowFormat
  | w1 | w2 | s | t | h
deriving DecidableEq, Repr

/-- The format an encoding is in: a buffer that starts with SOF is a frame. -/
def sourceFormat (src : Source) : RowFormat :=
  match src with
  | .line buf => if buf.head? = some sofByte then .w2 else .w1
  | .port (.rx _) => .s
  | .port .emit => .s
  | .port .dispatch => .s
  | .port (.cmd _) => .h
  | .port (.tmr _) => .t
  | .port (.serialize _ _ _) => .w2

/-- The first byte of an encoding, where it is bytes. -/
def sourceByte (src : Source) : Option Byte :=
  match src with
  | .line buf => buf.head?
  | .port (.rx _) => none
  | .port .emit => none
  | .port .dispatch => none
  | .port (.cmd w) => w.head?
  | .port (.tmr w) => w.head?
  | .port (.serialize _ _ _) => none

/-- The row's format. -/
def rowFormat (i : Instr) : RowFormat :=
  match i with
  | .ack => .w1
  | .nak => .w1
  | .can => .w1
  | .dataBadlen _ _ => .w2
  | .dataCsfail _ _ => .w2
  | .dataReq _ _ => .w2
  | .dataRes _ _ => .w2
  | .dataOther _ _ _ => .w2
  | .skip _ => .w1
  | .dataEncode _ _ _ => .w2
  | .rxByte _ => .s
  | .txEmit => .s
  | .tmDispatch => .s
  | .tmTimeoutAck => .t
  | .tmTimeoutResp => .t
  | .tmTimeoutUpd => .t
  | .tmTimeoutRetry => .t
  | .rxTimeout => .t
  | .ntExpire _ _ => .t
  | .sysReset => .h
  | .sysDestroy => .h
  | .sysSetid _ => .h
  | .sysStatus => .h
  | .seSetkey _ => .h
  | .seEncrypt _ _ _ => .h
  | .seDecrypt _ _ _ => .h
  | .seMac _ _ _ _ _ _ => .h
  | .seVerify _ _ _ _ _ _ _ => .h
  | .seSeal _ _ _ _ => .h
  | .seOpen _ _ _ _ _ _ => .h
  | .ntGenerate _ => .h
  | .ntStore _ _ _ _ => .h
  | .ntFindfree _ => .h
  | .ntRelease _ _ => .h
  | .ntTake _ _ => .h
  | .tmAdd _ => .h
  | .tmReject _ _ => .h
  | .tmNodeAsleep _ => .h

/-- The first byte of the row's `match`, where the row fixes one. -/
def rowByte (i : Instr) : Option Byte :=
  match i with
  | .ack => some 0x06
  | .nak => some 0x15
  | .can => some 0x18
  | .dataBadlen _ _ => some 0x01
  | .dataCsfail _ _ => some 0x01
  | .dataReq _ _ => some 0x01
  | .dataRes _ _ => some 0x01
  | .dataOther _ _ _ => some 0x01
  | .skip _ => none
  | .dataEncode _ _ _ => none
  | .rxByte _ => none
  | .txEmit => none
  | .tmDispatch => none
  | .tmTimeoutAck => some 0x01
  | .tmTimeoutResp => some 0x02
  | .tmTimeoutUpd => some 0x03
  | .tmTimeoutRetry => some 0x04
  | .rxTimeout => some 0x10
  | .ntExpire _ _ => some 0x20
  | .sysReset => some 0x00
  | .sysDestroy => some 0x01
  | .sysSetid _ => some 0x02
  | .sysStatus => some 0x03
  | .seSetkey _ => some 0x10
  | .seEncrypt _ _ _ => some 0x11
  | .seDecrypt _ _ _ => some 0x12
  | .seMac _ _ _ _ _ _ => some 0x13
  | .seVerify _ _ _ _ _ _ _ => some 0x14
  | .seSeal _ _ _ _ => some 0x15
  | .seOpen _ _ _ _ _ _ => some 0x16
  | .ntGenerate _ => some 0x20
  | .ntStore _ _ _ _ => some 0x21
  | .ntFindfree _ => some 0x22
  | .ntRelease _ _ => some 0x23
  | .ntTake _ _ => some 0x24
  | .tmAdd _ => some 0x30
  | .tmReject _ _ => some 0x31
  | .tmNodeAsleep _ => some 0x32

/-- A well-formed instruction is encoded as its row says. -/
def EncodingRow.Statement (i : Instr) : Prop :=
  i.wf = true → sourceFormat (encode i) = rowFormat i ∧ ∀ b, rowByte i = some b → sourceByte (encode i) = some b

theorem EncodingRow.ack : EncodingRow.Statement .ack := fun _ => ⟨rfl, fun _ h => h⟩

theorem EncodingRow.nak : EncodingRow.Statement .nak := fun _ => ⟨rfl, fun _ h => h⟩

theorem EncodingRow.can : EncodingRow.Statement .can := fun _ => ⟨rfl, fun _ h => h⟩

theorem EncodingRow.dataBadlen : ∀ a b, EncodingRow.Statement (.dataBadlen a b) := fun _ _ _ => ⟨rfl, fun _ h => h⟩

theorem EncodingRow.dataCsfail : ∀ a b, EncodingRow.Statement (.dataCsfail a b) := fun _ _ _ => ⟨rfl, fun _ h => h⟩

theorem EncodingRow.dataReq : ∀ a b, EncodingRow.Statement (.dataReq a b) := fun _ _ _ => ⟨rfl, fun _ h => h⟩

theorem EncodingRow.dataRes : ∀ a b, EncodingRow.Statement (.dataRes a b) := fun _ _ _ => ⟨rfl, fun _ h => h⟩

theorem EncodingRow.dataOther : ∀ a b c, EncodingRow.Statement (.dataOther a b c) := fun _ _ _ _ => ⟨rfl, fun _ h => h⟩

theorem EncodingRow.skip : ∀ a, EncodingRow.Statement (.skip a) := by
  intro a h
  refine ⟨?_, fun _ hb => by simp [rowByte] at hb⟩
  have : a ≠ sofByte := by
    simp only [Instr.wf, isSkipByte, Bool.and_eq_true, bne_iff_ne] at h
    exact h.2
  simp [encode, sourceFormat, rowFormat, this]

theorem EncodingRow.dataEncode : ∀ a b c, EncodingRow.Statement (.dataEncode a b c) := fun _ _ _ _ => ⟨rfl, fun _ h => nomatch h⟩

theorem EncodingRow.rxByte : ∀ a, EncodingRow.Statement (.rxByte a) := fun _ _ => ⟨rfl, fun _ h => nomatch h⟩

theorem EncodingRow.txEmit : EncodingRow.Statement .txEmit := fun _ => ⟨rfl, fun _ h => nomatch h⟩

theorem EncodingRow.tmDispatch : EncodingRow.Statement .tmDispatch := fun _ => ⟨rfl, fun _ h => nomatch h⟩

theorem EncodingRow.tmTimeoutAck : EncodingRow.Statement .tmTimeoutAck := fun _ => ⟨rfl, fun _ h => h⟩

theorem EncodingRow.tmTimeoutResp : EncodingRow.Statement .tmTimeoutResp := fun _ => ⟨rfl, fun _ h => h⟩

theorem EncodingRow.tmTimeoutUpd : EncodingRow.Statement .tmTimeoutUpd := fun _ => ⟨rfl, fun _ h => h⟩

theorem EncodingRow.tmTimeoutRetry : EncodingRow.Statement .tmTimeoutRetry := fun _ => ⟨rfl, fun _ h => h⟩

theorem EncodingRow.rxTimeout : EncodingRow.Statement .rxTimeout := fun _ => ⟨rfl, fun _ h => h⟩

theorem EncodingRow.ntExpire : ∀ a b, EncodingRow.Statement (.ntExpire a b) := fun _ _ _ => ⟨rfl, fun _ h => h⟩

theorem EncodingRow.sysReset : EncodingRow.Statement .sysReset := fun _ => ⟨rfl, fun _ h => h⟩

theorem EncodingRow.sysDestroy : EncodingRow.Statement .sysDestroy := fun _ => ⟨rfl, fun _ h => h⟩

theorem EncodingRow.sysSetid : ∀ a, EncodingRow.Statement (.sysSetid a) := fun _ _ => ⟨rfl, fun _ h => h⟩

theorem EncodingRow.sysStatus : EncodingRow.Statement .sysStatus := fun _ => ⟨rfl, fun _ h => h⟩

theorem EncodingRow.seSetkey : ∀ a, EncodingRow.Statement (.seSetkey a) := fun _ _ => ⟨rfl, fun _ h => h⟩

theorem EncodingRow.seEncrypt : ∀ a b c, EncodingRow.Statement (.seEncrypt a b c) := fun _ _ _ _ => ⟨rfl, fun _ h => h⟩

theorem EncodingRow.seDecrypt : ∀ a b c, EncodingRow.Statement (.seDecrypt a b c) := fun _ _ _ _ => ⟨rfl, fun _ h => h⟩

theorem EncodingRow.seMac : ∀ a b c d e f, EncodingRow.Statement (.seMac a b c d e f) := fun _ _ _ _ _ _ _ => ⟨rfl, fun _ h => h⟩

theorem EncodingRow.seVerify : ∀ a b c d e f g, EncodingRow.Statement (.seVerify a b c d e f g) := fun _ _ _ _ _ _ _ _ => ⟨rfl, fun _ h => h⟩

theorem EncodingRow.seSeal : ∀ a b c d, EncodingRow.Statement (.seSeal a b c d) := fun _ _ _ _ _ => ⟨rfl, fun _ h => h⟩

theorem EncodingRow.seOpen : ∀ a b c d e f, EncodingRow.Statement (.seOpen a b c d e f) := fun _ _ _ _ _ _ _ => ⟨rfl, fun _ h => h⟩

theorem EncodingRow.ntGenerate : ∀ a, EncodingRow.Statement (.ntGenerate a) := fun _ _ => ⟨rfl, fun _ h => h⟩

theorem EncodingRow.ntStore : ∀ a b c d, EncodingRow.Statement (.ntStore a b c d) := fun _ _ _ _ _ => ⟨rfl, fun _ h => h⟩

theorem EncodingRow.ntFindfree : ∀ a, EncodingRow.Statement (.ntFindfree a) := fun _ _ => ⟨rfl, fun _ h => h⟩

theorem EncodingRow.ntRelease : ∀ a b, EncodingRow.Statement (.ntRelease a b) := fun _ _ _ => ⟨rfl, fun _ h => h⟩

theorem EncodingRow.ntTake : ∀ a b, EncodingRow.Statement (.ntTake a b) := fun _ _ _ => ⟨rfl, fun _ h => h⟩

theorem EncodingRow.tmAdd : ∀ a, EncodingRow.Statement (.tmAdd a) := fun _ _ => ⟨rfl, fun _ h => h⟩

theorem EncodingRow.tmReject : ∀ a b, EncodingRow.Statement (.tmReject a b) := fun _ _ _ => ⟨rfl, fun _ h => h⟩

theorem EncodingRow.tmNodeAsleep : ∀ a, EncodingRow.Statement (.tmNodeAsleep a) := fun _ _ => ⟨rfl, fun _ h => h⟩

end Sys2Proof.Laws
end

