-- ==== Sys2Proof/Laws/Records.lean ====
section
/-! SUPPORT. Each helper procedure of the transaction machine leaves TM in a state that its invariants describe
(spec/44_transaction_fsm.md R242). A procedure is called in the middle of a step, where only the records are in order
(`Records`); what it leaves is the whole of `TmInv`. -/

namespace Sys2Proof.Machine

/-- The records of TM are in order. -/
def Records (s : State) : Prop := CurInv s ∧ QueueInv s

theorem TmInv.records {s : State} (h : TmInv s) : Records s := h.2.2.2.2

/-- `Records` reads the current transaction, the queue and `SEQ` only. -/
theorem Records.congr {s t : State} (h : Records s) (hc : t.tm.cur = s.tm.cur) (hq : t.tm.q = s.tm.q)
    (hs : t.seq = s.seq) : Records t := by
  simpa only [Records, CurInv, QueueInv, hc, hq, hs] using h

theorem txnOk_mono {a b : Nat} (h : a ≤ b) {t : Txn} (ht : txnOk a t) : txnOk b t :=
  ⟨ht.1, ht.2.1, ht.2.2.1, ht.2.2.2.1, Nat.lt_of_lt_of_le ht.2.2.2.2 h⟩

/-- The records stay in order when `SEQ` counts on. -/
theorem Records.mono {s t : State} (h : Records s) (hc : t.tm.cur = s.tm.cur) (hq : t.tm.q = s.tm.q)
    (hs : s.seq ≤ t.seq) : Records t := by
  obtain ⟨h1, h2, h3, h4⟩ := h
  refine ⟨?_, ?_⟩
  · intro c hcur
    rw [hc] at hcur
    rw [hq]
    exact ⟨txnOk_mono hs (h1 c hcur).1, (h1 c hcur).2⟩
  · unfold QueueInv
    rw [hq]
    exact ⟨h2, h3, fun t ht => txnOk_mono hs (h4 t ht)⟩

/-- `TmInv` reads the registers of TM and `SEQ` only. -/
theorem TmInv.congr {s t : State} (h : TmInv s) (ht : t.tm = s.tm) (hs : s.seq ≤ t.seq) : TmInv t := by
  have hr := Records.mono h.records (t := t) (by rw [ht]) (by rw [ht]) hs
  obtain ⟨h1, h2, h3, h4, -⟩ := h
  unfold TmInv
  rw [ht]
  exact ⟨h1, h2, h3, h4, hr⟩

/-- TM idle with nothing latched and the queue in order. -/
theorem tmInv_of_idle {s : State} (hq : QueueInv s) (h : s.tm = idleRegs s.tm) : TmInv s := by
  have hcur : s.tm.cur = none := by rw [h]; rfl
  have hst : s.tm.st = .idle := by rw [h]; rfl
  have hph : s.tm.ph = .none := by rw [h]; rfl
  have htm : s.tm.tmr = .off := by rw [h]; rfl
  have hsf : s.tm.hsf = false := by rw [h]; rfl
  have htx : s.tm.txframe = none := by rw [h]; rfl
  have hhr : s.tm.hsreply = none := by rw [h]; rfl
  have hca : s.tm.cause = none := by rw [h]; rfl
  refine ⟨by simp [hcur, hst], by simp [hph, hst], by simp [TimerInv, htm, hph, hst], ?_, ?_, hq⟩
  · simp [LatchInv, hst, hph, hsf, htx, hhr, hca]
  · simp [CurInv, hcur]

theorem tmInv_settledWith {s : State} (h : Records s) (c : Txn) (o : TxnOutcome) : TmInv (settledWith c o s) :=
  tmInv_of_idle (s := settledWith c o s) h.2 rfl

/-- The retry policy leaves TM in order: the frame is latched exactly when the next attempt is of the transaction itself. -/
theorem tmInv_failedWith {s : State} {c : Txn} {hs : Bool} {cause : ErrCode} (h : Records s) (hc : s.tm.cur = some c)
    (ht : hs = true → s.tm.txframe = none ∧ ∃ m, c.hsMsg = some m) (hf : hs = false → s.tm.txframe ≠ none) :
    TmInv (failedWith c hs cause s) := by
  unfold failedWith
  split
  · next hlt =>
    obtain ⟨hcur, hq⟩ := h
    refine ⟨by simp, by simp, by simp [TimerInv], ?_, ?_, hq⟩
    · refine ⟨by simp, ?_, ?_, by simp⟩
      · simp only [reduceCtorEq, true_and, false_or]
        intro h1
        obtain ⟨h2, m, h3⟩ := ht h1
        exact ⟨h2, _, m, rfl, h3⟩
      · simp only [reduceCtorEq, true_and, false_or]
        exact hf
    · intro c' hc'
      simp only [Option.some.injEq] at hc'
      subst hc'
      have := hcur c hc
      exact ⟨⟨this.1.1, hlt, this.1.2.2⟩, this.2⟩
  · exact tmInv_settledWith h c _

/-- An attempt that has been started leaves TM in order. -/
theorem tmInv_attempting {s : State} {c : Txn} {st : TmState} {f : Bytes} (h : Records s) (hc : s.tm.cur = some c)
    (hst : st = .handshake ∧ s.tm.txframe = none ∧ (∃ m, c.hsMsg = some m) ∨ st = .execute ∧ s.tm.txframe ≠ none) :
    TmInv (attempting st f s) := by
  rcases hst with ⟨rfl, h1, h2⟩ | ⟨rfl, h1⟩
  · refine ⟨by simp [attempting, hc], by simp [attempting], by simp [attempting, TimerInv], ?_, h⟩
    refine ⟨by simp [attempting], fun _ => ⟨h1, c, h2.choose, hc, h2.choose_spec⟩, by simp [attempting], by simp [attempting]⟩
  · refine ⟨by simp [attempting, hc], by simp [attempting], by simp [attempting, TimerInv], ?_, h⟩
    exact ⟨by simp [attempting], by simp [attempting], fun _ => h1, by simp [attempting]⟩

theorem tmInv_enterHandshake {s : State} {c : Txn} {m : Message} (h : Records s) (hc : s.tm.cur = some c)
    (hm : c.hsMsg = some m) (ht : s.tm.txframe = none) : TmInv (enterHandshake s) := by
  rw [enterHandshake_eq hc hm ((h.1 c hc).1.2.2.2.1 m hm)]
  exact tmInv_attempting h hc (.inl ⟨rfl, ht, m, hm⟩)

/-- What building a transaction's payload leaves of the state: the registers of TM and `SEQ`. -/
theorem materialize_frame (cfg : Config) (t : Txn) (s : State) :
    (materialize cfg t s).1.tm = s.tm ∧ (materialize cfg t s).1.seq = s.seq := by
  unfold materialize
  split
  · exact ⟨rfl, rfl⟩
  · split
    · exact ⟨rfl, rfl⟩
    · next n hn =>
      cases hk : sealChecks n t.secPlain none s with
      | error e => rw [sealMessage_error cfg hk]; exact ⟨rfl, rfl⟩
      | ok x =>
        obtain ⟨own, k, e⟩ := x
        rw [sealMessage_ok cfg hk]
        dsimp only
        split <;> exact ⟨rfl, rfl⟩

theorem tmInv_buildError {s : State} {c : Txn} {e : ErrCode} (h : Records s) (hc : s.tm.cur = some c)
    (ht : s.tm.txframe = none) : TmInv (buildError e c s) := by
  unfold buildError
  split
  · next hh =>
    obtain ⟨m, hm⟩ := Option.isSome_iff_exists.mp hh.2
    rw [fail_eq hc]
    have : hsfOf s.tm.st .noNonce = true := by simp [hsfOf]
    rw [this]
    exact tmInv_failedWith h hc (fun _ => ⟨ht, m, hm⟩) (by simp)
  · rw [finalize_eq hc]
    exact tmInv_settledWith h c _

theorem tmInv_sendBuilt {s : State} {c : Txn} {p : Bytes} (h : Records s) (hc : s.tm.cur = some c)
    (ht : s.tm.txframe = none) (hst : s.tm.st = .execute) : TmInv (sendBuilt c p s) := by
  unfold sendBuilt
  split
  · next f hf =>
    have he : startAttempt f (latchFrame f s) = attempting .execute f (latchFrame f s) := by
      simp only [startAttempt, attempting, latchFrame, hst]
    rw [he]
    exact tmInv_attempting (h.congr rfl rfl rfl) hc (.inr ⟨rfl, by simp⟩)
  · exact tmInv_buildError h hc ht

theorem tmInv_enterExecute (cfg : Config) {s : State} {c : Txn} (h : Records s) (hc : s.tm.cur = some c) :
    TmInv (enterExecute cfg s) := by
  cases hf : s.tm.txframe with
  | some f =>
    rw [enterExecute_latched cfg hc hf]
    exact tmInv_attempting h hc (.inr ⟨rfl, by simp [hf]⟩)
  | none =>
    simp only [enterExecute, hc, hf]
    obtain ⟨h1, h2⟩ := materialize_frame cfg c (setSt .execute s)
    have hr : Records (materialize cfg c (setSt .execute s)).1 := h.congr (by rw [h1]; rfl) (by rw [h1]; rfl) (by rw [h2]; rfl)
    have hc' : (materialize cfg c (setSt .execute s)).1.tm.cur = some c := by rw [h1]; exact hc
    have ht' : (materialize cfg c (setSt .execute s)).1.tm.txframe = none := by rw [h1]; exact hf
    have hs' : (materialize cfg c (setSt .execute s)).1.tm.st = .execute := by rw [h1]; rfl
    revert hr hc' ht' hs'
    rcases materialize cfg c (setSt .execute s) with ⟨s', r⟩
    intro hr hc' ht' hs'
    cases r with
    | ok p => exact tmInv_sendBuilt hr hc' ht' hs'
    | error e => exact tmInv_buildError hr hc' ht'

/-- Storing the nonce of a handshake reply leaves the registers of TM alone and lets `SEQ` count on. -/
theorem storeReplyNonce_frame (cfg : Config) (r : Option Message) (s : State) :
    (storeReplyNonce cfg r s).tm = s.tm ∧ s.seq ≤ (storeReplyNonce cfg r s).seq := by
  unfold storeReplyNonce
  split
  · exact ⟨rfl, Nat.le_succ _⟩
  · exact ⟨rfl, Nat.le_refl _⟩

theorem tmInv_primitiveSuccess (cfg : Config) {s : State} (h : TmInv s)
    (hst : s.tm.st = .handshake ∨ s.tm.st = .execute) (r : Option Message) : TmInv (primitiveSuccess cfg r s) := by
  have hcur : ∃ c, s.tm.cur = some c := by
    cases hc : s.tm.cur with
    | none => rw [h.1.mp hc] at hst; simp at hst
    | some c => exact ⟨c, rfl⟩
  obtain ⟨c, hc⟩ := hcur
  rcases hst with hst | hst
  · rw [primitiveSuccess_handshake cfg hst, handshakeSuccess]
    obtain ⟨h1, h2⟩ := storeReplyNonce_frame cfg r (latchReply r (endPrimitive s))
    exact tmInv_enterExecute cfg (c := c) (h.records.mono (by rw [h1]; rfl) (by rw [h1]; rfl) h2) (by rw [h1]; exact hc)
  · rw [primitiveSuccess_execute cfg hst hc]
    have hl := h.2.2.2.1.2.2.1 (.inl hst)
    split
    · refine ⟨by simp [hc], by simp, by simp [TimerInv], ⟨by simp, by simp, fun _ => hl, by simp⟩, ?_⟩
      exact h.records
    · exact tmInv_settledWith h.records c _

/-- A failed attempt, from any state in which one can fail. -/
theorem tmInv_fail {s : State} (h : TmInv s)
    (hst : s.tm.st = .handshake ∨ s.tm.st = .execute ∨ s.tm.st = .waitForUpdate) {cause : ErrCode}
    (hn : cause ≠ .noNonce) : TmInv (fail cause s) := by
  cases hc : s.tm.cur with
  | none => rw [fail_none hc]; exact h
  | some c =>
    rw [fail_eq hc]
    have hl := h.2.2.2.1
    refine tmInv_failedWith h.records hc ?_ ?_
    · intro hh
      have hst : s.tm.st = .handshake := by simpa [hsfOf, hn] using hh
      obtain ⟨h1, c', m, h2, h3⟩ := hl.2.1 (.inl hst)
      rw [hc] at h2
      cases h2
      exact ⟨h1, m, h3⟩
    · intro hh
      have : s.tm.st ≠ .handshake := by
        intro h0
        simp [hsfOf, h0] at hh
      exact hl.2.2.1 (by tauto)

end Sys2Proof.Machine
end

