-- ==== Sys2Proof/Tests/Slice0.lean ====
section
/-! SUPPORT. The model's own tests: ill-formed terms that WellFormed refuses, one written-out word per instruction, single
steps on small states with the results that spec/95_test_vectors.md and the examples of the rules give, and for each
statement with hypotheses a state and operands that meet them. -/

namespace Sys2Proof.Tests
open Sys2Proof Sys2Proof.Machine

-- One theorem at a time: a stack for each of a hundred would not fit in the check's memory limit.
set_option Elab.async false

/-! ### WellFormed refuses what no encoding can carry -/

theorem test_wf_badlen_range : (Instr.dataBadlen 3 [0, 0, 0]).wf = false := by decide
theorem test_wf_badlen_body : (Instr.dataBadlen 2 [0xAA]).wf = false := by decide
theorem test_wf_csfail_range : (Instr.dataCsfail 2 [0, 0]).wf = false := by decide
theorem test_wf_csfail_body : (Instr.dataCsfail 3 [0, 0x15]).wf = false := by decide
theorem test_wf_csfail_good_checksum : (Instr.dataCsfail 3 [0, 0x15, 0xE9]).wf = false := by decide
theorem test_wf_req_length : (Instr.dataReq 0 (List.replicate 253 0)).wf = false := by decide +kernel
theorem test_wf_res_length : (Instr.dataRes 0 (List.replicate 253 0)).wf = false := by decide +kernel
theorem test_wf_other_req_type : (Instr.dataOther 0 0x15 []).wf = false := by decide
theorem test_wf_other_res_type : (Instr.dataOther 1 0x15 []).wf = false := by decide
theorem test_wf_other_length : (Instr.dataOther 2 0 (List.replicate 253 0)).wf = false := by decide +kernel
theorem test_wf_skip_markers :
    [ackByte, nakByte, canByte, sofByte].all (fun b => !(Instr.skip b).wf) = true := by decide
theorem test_wf_longest : (Instr.dataReq 0 (List.replicate 252 0)).wf = true := by decide +kernel

/-! ### Every constructor's decoding, on words written out from 30_encoding.md R80, R82, R92, R93 and the examples of
40_frame_decode.md. The operand bytes of host commands and of a nonce expiry are the model's own (log entry 5). -/

theorem test_decode_control :
    decodeLine [0x06] = .ok .ack ∧ decodeLine [0x15] = .ok .nak ∧ decodeLine [0x18] = .ok .can := by decide
theorem test_decode_badlen : decodeLine [0x01, 0x02, 0xAA, 0xBB] = .ok (.dataBadlen 0x02 [0xAA, 0xBB]) := by decide
theorem test_decode_csfail :
    decodeLine [0x01, 0x03, 0x00, 0x15, 0xE8] = .ok (.dataCsfail 0x03 [0x00, 0x15, 0xE8]) := by decide
theorem test_decode_req : decodeLine [0x01, 0x05, 0x00, 0x13, 0x06, 0x01, 0xEE] = .ok (.dataReq 0x13 [0x06, 0x01]) := by decide
theorem test_decode_res : decodeLine [0x01, 0x04, 0x01, 0x13, 0x01, 0xE8] = .ok (.dataRes 0x13 [0x01]) := by decide
theorem test_decode_other : decodeLine [0x01, 0x03, 0x02, 0x15, 0xEB] = .ok (.dataOther 0x02 0x15 []) := by decide
theorem test_decode_skip : decodeLine [0xAA, 0x06] = .ok (.skip 0xAA) := by decide
theorem test_decode_incomplete : decodeLine [0x01, 0x05, 0x00] = .error .incomplete := by decide
theorem test_decode_internal :
    decodeMove (.rx 0x15) = .ok (.rxByte 0x15) ∧ decodeMove .emit = .ok .txEmit ∧ decodeMove .dispatch = .ok .tmDispatch ∧
    decodeMove (.serialize 0x00 0x15 []) = .ok (.dataEncode 0x00 0x15 []) := by decide
theorem test_decode_timers :
    decodeTmr [0x01] = .ok .tmTimeoutAck ∧ decodeTmr [0x02] = .ok .tmTimeoutResp ∧ decodeTmr [0x03] = .ok .tmTimeoutUpd ∧
    decodeTmr [0x04] = .ok .tmTimeoutRetry ∧ decodeTmr [0x10] = .ok .rxTimeout ∧
    decodeTmr [0x20, 0x05, 0x12] = .ok (.ntExpire 0x05 0x12) ∧ decodeTmr [0x05] = .error (.unknownTimer [0x05]) := by decide
theorem test_decode_sys :
    decodeCmd [0x00] = .ok .sysReset ∧ decodeCmd [0x01] = .ok .sysDestroy ∧ decodeCmd [0x02, 0x05] = .ok (.sysSetid 0x05) ∧
    decodeCmd [0x03] = .ok .sysStatus := by decide
theorem test_decode_key_and_cipher :
    decodeCmd [0x10, 0x02, 0x0A, 0x0B] = .ok (.seSetkey [0x0A, 0x0B]) ∧
    decodeCmd [0x11, 0x01, 0xC1, 0x01, 0xA1, 0x00] = .ok (.seEncrypt [0xC1] [0xA1] []) ∧
    decodeCmd [0x12, 0x01, 0xC1, 0x01, 0xA1, 0x00] = .ok (.seDecrypt [0xC1] [0xA1] []) := by decide
theorem test_decode_mac :
    decodeCmd [0x13, 0x01, 0xA1, 0x00, 0x81, 0x01, 0x05, 0x01, 0x71] = .ok (.seMac [0xA1] [] 0x81 0x01 0x05 [0x71]) ∧
    decodeCmd [0x14, 0x01, 0xA1, 0x00, 0x81, 0x01, 0x05, 0x01, 0x71, 0x01, 0x33] =
      .ok (.seVerify [0xA1] [] 0x81 0x01 0x05 [0x71] [0x33]) := by decide
theorem test_decode_seal_open :
    decodeCmd [0x15, 0x05, 0x81, 0x01, 0x25, 0x00] = .ok (.seSeal 0x05 0x81 [0x25] none) ∧
    decodeCmd [0x15, 0x05, 0x81, 0x01, 0x25, 0x01, 0x11] = .ok (.seSeal 0x05 0x81 [0x25] (some 0x11)) ∧
    decodeCmd [0x16, 0x01, 0x81, 0x01, 0xA1, 0x01, 0x71, 0x11, 0x01, 0x33] =
      .ok (.seOpen 0x01 0x81 [0xA1] [0x71] 0x11 [0x33]) := by decide
theorem test_decode_nonces :
    decodeCmd [0x20, 0x05] = .ok (.ntGenerate 0x05) ∧
    decodeCmd [0x21, 0x05, 0x02, 0x11, 0x22, 0x01, 0x01] = .ok (.ntStore 0x05 [0x11, 0x22] 0x01 true) ∧
    decodeCmd [0x22, 0x05] = .ok (.ntFindfree 0x05) ∧ decodeCmd [0x23, 0x05, 0x11] = .ok (.ntRelease 0x05 0x11) ∧
    decodeCmd [0x24, 0x05, 0x11] = .ok (.ntTake 0x05 0x11) := by decide
theorem test_decode_add :
    decodeCmd [0x30, 0x01, 0x00, 0x13, 0x01, 0x2A, 0x00, 0x00, 0x01, 0x05, 0x02, 0x01, 0x03, 0x00, 0x00, 0x81, 0x00, 0x00, 0x00] =
      .ok (.tmAdd { id := 1, msg := { type := 0x00, funcId := 0x13, payload := [0x2A], expect := none }, hsMsg := none,
                    node := some 0x05, priority := 2, maxAttempts := some 3, expectsUpdate := false, secure := false,
                    secCmd := 0x81, secPlain := [], isPing := false, partialReports := [] }) := by decide +kernel
theorem test_decode_tm :
    decodeCmd [0x31, 0x01, 0x05, 0x22] = .ok (.tmReject (.nodeIs 0x05) .nodeRemoved) ∧
    decodeCmd [0x32, 0x07] = .ok (.tmNodeAsleep 0x07) := by decide
theorem test_decode_bad_commands :
    decodeCmd [0x7F] = .error (.unknownCommand 0x7F) ∧ decodeCmd [0x22] = .error (.badOperands 0x22) ∧
    decodeCmd [0x22, 0x05, 0x05] = .error (.badOperands 0x22) ∧ decodeCmd [0x31, 0x00, 0x00] = .error (.badOperands 0x31) ∧
    decodeCmd [] = .error .noCommand := by decide
theorem test_table_words :
    decodeTableWord 8 0x06 = some .ack ∧ decodeTableWord 24 0x010200 = some (.dataBadlen 0x02 [0x00, 0x00]) ∧
    decodeTableWord 24 0x010302 = some (.dataCsfail 0x03 [0x02, 0x00, 0x00]) ∧
    decodeTableWord 8 0x02 = some (.sysSetid 0x00) ∧ decodeTableWord 8 0x04 = some .tmTimeoutRetry := by decide +kernel

/-! ### States -/

/-- `K` of 95_test_vectors.md section 2.3. -/
def netKey : Bytes := [1, 2, 3, 4, 5, 6, 7, 8, 9, 10, 11, 12, 13, 14, 15, 16]
/-- `AUTHKEY` of V30. -/
def authKey : Bytes := [0xC5, 0xFE, 0x1C, 0xA1, 0x7D, 0x36, 0xC9, 0x92, 0x73, 0x1A, 0x0C, 0x0C, 0x46, 0x8C, 0x1E, 0xF9]
/-- `ENCKEY` of V30. -/
def encKey : Bytes := [0x0A, 0x75, 0xA5, 0x17, 0x76, 0xB2, 0x89, 0x12, 0xF3, 0xEB, 0xE5, 0xDA, 0x13, 0x9F, 0x21, 0xEE]
/-- `SN` of 95_test_vectors.md section 2.3. -/
def sn : Bytes := [0xA0, 0xA1, 0xA2, 0xA3, 0xA4, 0xA5, 0xA6, 0xA7]
/-- `RN` of 95_test_vectors.md section 2.3. -/
def rn : Bytes := [0x11, 0x22, 0x33, 0x44, 0x55, 0x66, 0x77, 0x88]
/-- The MAC of V42. -/
def mac42 : Bytes := [0x33, 0xB0, 0x09, 0x91, 0x05, 0x64, 0x11, 0x43]
/-- The ciphertext of V40. -/
def ct40 : Bytes := [0x71, 0x2D, 0x36, 0x9E]
/-- The plaintext of V40. -/
def plain40 : Bytes := [0x00, 0x25, 0x01, 0xFF]

/-- A configuration that a test can evaluate: the random bytes are `SN`, every reply is final, no nonce in a reply. -/
def config : Config :=
  { expect := fun _ _ => .final, txnPred := fun _ _ => true, isUpdate := fun _ m => m.funcId == 0x04, needHS := none,
    nonceOf := fun _ => none, secLayout := fun _ _ ct _ _ => ct, rnd := fun i => sn.getD i 0, dropOrder := fun _ _ => 0,
    tRespMs := 0, tUpdateMs := 0, tRetryExtraMs := fun _ => 0, tRxFrameMs := 0, nonceTtlMs := 0 }

/-- The next state of an outcome. -/
def nextOf (r : Result) : Option State :=
  match r with
  | .next s => some s
  | .fault _ => none
  | .refused _ => none

/-- The last reply of an outcome. -/
def replyOf (r : Result) : Option Reply := (nextOf r).bind fun s => s.ports.replies.getLast?

/-- The transaction of 95_test_vectors.md section 2.5, as stored, with its predicate, expected update and failed attempts. -/
def txn (expect : Option PredId) (expectsUpdate : Bool) (attempts : Nat) : Txn :=
  { id := 1, msg := { type := 0x00, funcId := 0x13, payload := [0x01], expect }, hsMsg := none, node := some 0x05,
    priority := 2, created := 0, attempts, maxAttempts := 3, expectsUpdate, secure := false, secCmd := 0, secPlain := [],
    isPing := false, outcome := .pending, partialReports := [] }

/-- The operand of `TM.ADD` that `txn` comes from. -/
def spec (maxAttempts : Option Nat) (payload : Bytes) (secure : Bool) : TxnSpec :=
  { id := 1, msg := { type := 0x00, funcId := 0x13, payload, expect := none }, hsMsg := none, node := some 0x05,
    priority := 2, maxAttempts, expectsUpdate := false, secure, secCmd := 0x81, secPlain := [0x01], isPing := false,
    partialReports := [] }

/-- The frame of `txn` (95_test_vectors.md section 2.5). -/
def frame : Bytes := [0x01, 0x04, 0x00, 0x13, 0x01, 0xE9]

/-- TM busy with `c`, its frame latched. -/
def busy (st : TmState) (ph : Phase) (tmr : TmTimer) (c : Txn) : State :=
  { State.reset with tm.st := st, tm.ph := ph, tm.tmr := tmr, tm.cur := some c, tm.txframe := some frame, seq := 1 }

/-- `txn` with a handshake message. -/
def txnHs (expect : Option PredId) : Txn :=
  { txn none false 0 with
    hsMsg := some { type := 0x00, funcId := 0x13, payload := [0x05, 0x02, 0x98, 0x40, 0x25, 0x2D], expect } }

/-- TM in a handshake with `c`. -/
def shaking (ph : Phase) (tmr : TmTimer) (c : Txn) : State :=
  { State.reset with tm.st := .handshake, tm.ph := ph, tm.tmr := tmr, tm.cur := some c, seq := 1 }

/-- TM idle with one transaction queued. -/
def queued (t : Txn) : State := { State.reset with tm.q := [t], seq := 1 }

/-- A block with the key of V30, the node id `own` and one nonce. -/
def keyed (own issuer receiver : NodeId) (free : Bool) : State :=
  { State.reset with
    se := { ownid := some own, netkey := netKey, authkey := authKey, enckey := encKey, keyvalid := true,
            nt := [({ issuer, id := 0x11 }, { nonce := rn, receiver, free, created := 0 })] }, seq := 1 }

/-- Block A of V44: node 1 with a free nonce of node 5. -/
def blockA : State := keyed 0x01 0x05 0x01 true
/-- Block B of V50: node 5 with the nonce it gave node 1. -/
def blockB : State := keyed 0x05 0x05 0x01 false

/-! ### Wire symbols -/

/-- V60. -/
theorem test_ack : (nextOf (exec .ack { busy .execute .waitAck .ack (txn none false 0) with fc.rxbuf := [0x06] })).map
    (fun s => (s.fc.rxbuf, s.tm.st, s.tm.tmr, s.ports.events)) = some ([], .idle, .off, [.txnDone 1 (.success none)]) := by
  decide +kernel
/-- V61, its first half. -/
theorem test_ack_reply : (nextOf (exec .ack (busy .execute .waitAck .ack (txn (some 0) false 0)))).map
    (fun s => (s.tm.st, s.tm.ph, s.tm.tmr)) = some (.execute, .waitReply, .resp) := by decide +kernel
/-- V63. -/
theorem test_nak : (nextOf (exec .nak (busy .execute .waitAck .ack (txn none false 0)))).map
    (fun s => (s.tm.st, s.tm.tmr, s.tm.cause, s.tm.hsf, s.tm.cur.map (fun c => c.attempts))) =
      some (.retryWait, .retry, some .linkNak, false, some 1) := by decide +kernel
/-- V64. -/
theorem test_can : (nextOf (exec .can (busy .execute .waitAck .ack { txn none false 0 with maxAttempts := 1 }))).map
    (fun s => (s.tm.st, s.ports.events)) =
      some (.idle, [.txnDone 1 (.failure .maxAttempts (some .linkCan))]) := by decide +kernel
/-- V17. -/
theorem test_badlen : (nextOf (exec (.dataBadlen 0x02 [0xAA, 0xBB])
    { State.reset with fc.rxbuf := [0x01, 0x02, 0xAA, 0xBB, 0x06] })).map (fun s => (s.fc.rxbuf, s.fc.txq)) =
      some ([0x06], [0x15]) := by decide +kernel
/-- V16. -/
theorem test_csfail : (nextOf (exec (.dataCsfail 0x03 [0x00, 0x15, 0xE8])
    { State.reset with fc.rxbuf := [0x01, 0x03, 0x00, 0x15, 0xE8] })).map (fun s => (s.fc.rxbuf, s.fc.txq, s.ports.events)) =
      some ([], [0x15], []) := by decide +kernel
/-- V14. -/
theorem test_req : (nextOf (exec (.dataReq 0x15 []) { State.reset with fc.rxbuf := [0x01, 0x03, 0x00, 0x15, 0xE9] })).map
    (fun s => (s.fc.rxbuf, s.fc.txq, s.ports.events)) =
      some ([], [0x06], [.unsolicited { type := 0x00, funcId := 0x15, payload := [], expect := none }]) := by decide +kernel
/-- V62: a reply that comes before the ACK is unsolicited. -/
theorem test_res : (nextOf (exec (.dataRes 0x13 [0x00]) (busy .execute .waitAck .ack (txn (some 0) false 0)))).map
    (fun s => (s.fc.txq, s.ports.events, s.tm.ph)) =
      some ([0x06], [.unsolicited { type := 0x01, funcId := 0x13, payload := [0x00], expect := none }], .waitAck) := by
  decide +kernel
/-- P2: the final reply ends the transaction. -/
theorem test_final_reply :
    ((acceptMessage config 7 0x00 0x13 [0x2A, 0x00] (busy .execute .waitReply .resp (txn (some 0) false 0))).ports.events) =
      [.txnDone 1 (.success (some { type := 0x00, funcId := 0x13, payload := [0x2A, 0x00], expect := none }))] := by
  decide +kernel
/-- V65, its last step. -/
theorem test_update :
    ((acceptMessage config 5 0x00 0x04 [] (busy .waitForUpdate .none .upd (txn none true 1))).ports.events) =
      [.txnDone 1 (.success (some { type := 0x00, funcId := 0x04, payload := [], expect := none }))] := by decide +kernel
/-- V18. -/
theorem test_other : (nextOf (exec (.dataOther 0x02 0x15 []) { State.reset with fc.rxbuf := [0x01, 0x03, 0x02, 0x15, 0xEB] })).map
    (fun s => (s.fc.rxbuf, s.fc.txq, s.ports.events)) = some ([], [0x06], [.logDrop 0x02 0x15 []]) := by decide +kernel
/-- V21, its first byte. -/
theorem test_skip : (nextOf (exec (.skip 0xAA) { State.reset with fc.rxbuf := [0xAA, 0x06] })).map (fun s => (s.fc.rxbuf, s.fc.txq)) =
    some ([0x06], []) := by decide +kernel

/-! ### Encoder and line -/

/-- V5. -/
theorem test_encode : replyOf (exec (.dataEncode 0x01 0x06 [0x01, 0x06, 0x15, 0x18]) State.reset) =
    some (.bytes [0x01, 0x07, 0x01, 0x06, 0x01, 0x06, 0x15, 0x18, 0xF5]) := by decide +kernel
/-- V4. -/
theorem test_encode_long : replyOf (exec (.dataEncode 0x00 0x13 (List.replicate 253 0)) State.reset) =
    some (.error .precondition) := by decide +kernel
/-- V14, its last byte. -/
theorem test_rx : (nextOf (exec (.rxByte 0xE9) { State.reset with fc.rxbuf := [0x01, 0x03, 0x00, 0x15], fc.rxtmr := true })).map
    (fun s => (s.fc.rxbuf, s.fc.rxtmr, s.fc.txq, s.ports.events.length)) = some ([], false, [0x06], 1) := by decide +kernel
/-- V19, its last byte. -/
theorem test_rx_waits : (nextOf (exec (.rxByte 0x00) { State.reset with fc.rxbuf := [0x01, 0x05], fc.rxtmr := true })).map
    (fun s => (s.fc.rxbuf, s.fc.rxtmr, s.fc.txq)) = some ([0x01, 0x05, 0x00], true, []) := by decide +kernel
/-- The example of 41_frame_encode.md R144. -/
theorem test_emit : (nextOf (exec .txEmit { State.reset with fc.txq := [0x06, 0x01, 0x03, 0x00, 0x15, 0xE9] })).map
    (fun s => (s.fc.txq, s.ports.wire)) = some ([0x01, 0x03, 0x00, 0x15, 0xE9], [0x06]) := by decide +kernel
/-- The example of 40_frame_decode.md R124. -/
theorem test_rx_timeout : (nextOf (exec .rxTimeout { State.reset with fc.rxbuf := [0x01, 0x05, 0x00], fc.rxtmr := true })).map
    (fun s => (s.fc.rxbuf, s.fc.rxtmr, s.fc.txq)) = some ([], false, [0x15]) := by decide +kernel

/-! ### Transaction machine -/

/-- The start of 95_test_vectors.md section 2.5. -/
theorem test_dispatch : (fun s : State => (s.tm.st, s.tm.ph, s.tm.tmr, s.fc.txq, s.tm.q))
    (dispatchTxn config (txn none false 0) (queued (txn none false 0))) = (.execute, .waitAck, .ack, frame, []) := by
  decide +kernel
/-- P5, its second line. -/
theorem test_dispatch_handshake : (fun s : State => (s.tm.st, s.tm.ph, s.fc.txq, s.tm.txframe))
    (dispatchTxn config { txnHs none with secure := true } (queued { txnHs none with secure := true })) =
      (.handshake, .waitAck, [0x01, 0x09, 0x00, 0x13, 0x05, 0x02, 0x98, 0x40, 0x25, 0x2D, 0x32], none) := by decide +kernel
/-- The example of 44_transaction_fsm.md R257. -/
theorem test_timeout_ack : (nextOf (exec .tmTimeoutAck (busy .execute .waitAck .ack (txn none false 2)))).map
    (fun s => (s.tm.st, s.ports.events)) = some (.idle, [.txnDone 1 (.failure .maxAttempts (some .ackTimeout))]) := by
  decide +kernel
/-- P7: a handshake whose reply does not come. -/
theorem test_timeout_resp : (nextOf (exec .tmTimeoutResp (shaking .waitReply .resp { txnHs (some 0) with attempts := 1 }))).map
    (fun s => (s.tm.st, s.tm.hsf, s.tm.cause, s.tm.cur.map (fun c => c.attempts))) =
      some (.retryWait, true, some .responseTimeout, some 2) := by decide +kernel
/-- V65. -/
theorem test_timeout_upd : (nextOf (exec .tmTimeoutUpd (busy .waitForUpdate .none .upd (txn none true 0)))).map
    (fun s => (s.tm.st, s.tm.hsf, s.tm.tmr, s.tm.cur.map (fun c => c.attempts))) =
      some (.retryWait, false, .retry, some 1) := by decide +kernel
/-- V63, its last step. -/
theorem test_timeout_retry : (nextOf (exec .tmTimeoutRetry (busy .retryWait .none .retry (txn none false 1)))).map
    (fun s => (s.tm.st, s.tm.ph, s.tm.tmr, s.fc.txq)) = some (.execute, .waitAck, .ack, frame) := by decide +kernel
/-- P7: after a failed handshake the handshake message goes out again. -/
theorem test_timeout_retry_handshake : (nextOf (exec .tmTimeoutRetry
    { shaking .none .retry (txnHs none) with tm.st := .retryWait, tm.hsf := true })).map (fun s => (s.tm.st, s.fc.txq)) =
      some (.handshake, [0x01, 0x09, 0x00, 0x13, 0x05, 0x02, 0x98, 0x40, 0x25, 0x2D, 0x32]) := by decide +kernel
/-- The set-up of 95_test_vectors.md section 2.5. -/
theorem test_add : (nextOf (exec (.tmAdd (spec (some 3) [0x01] false)) State.reset)).map (fun s => (s.tm.q.map (fun t => t.id), s.seq)) =
    some ([1], 1) := by decide +kernel
/-- V66. -/
theorem test_add_refused :
    replyOf (exec (.tmAdd (spec (some 0) [0x01] false)) State.reset) = some (.error .precondition) ∧
    replyOf (exec (.tmAdd (spec none (List.replicate 253 0) false)) State.reset) = some (.error .precondition) ∧
    replyOf (exec (.tmAdd (spec none [] true)) State.reset) = some (.error .noKey) ∧
    replyOf (exec (.tmAdd (spec none [] false)) (queued (txn none false 0))) = some (.error .precondition) ∧
    replyOf (exec (.tmAdd (spec none [] false)) { State.reset with tm.life := .destroyed }) = some (.error .notReady) := by
  decide +kernel
/-- P6: a purge of the queue and of the current transaction. -/
theorem test_reject : (nextOf (exec (.tmReject (.nodeIs 0x05) .nodeRemoved)
    { busy .execute .waitAck .ack { txn none false 0 with id := 10 } with
      tm.q := [{ txn none false 0 with id := 13, created := 1 }] })).map (fun s => (s.tm.st, s.ports.events, s.ports.replies)) =
      some (.idle, [.txnDone 13 (.failure .nodeRemoved none), .txnDone 10 (.failure .nodeRemoved none)], [.count 2]) := by
  decide +kernel
/-- The example of 44_transaction_fsm.md R274. -/
theorem test_asleep : (nextOf (exec (.tmNodeAsleep 0x05) (busy .waitForUpdate .none .upd (txn none true 0)))).map
    (fun s => (s.tm.st, s.tm.q.map (fun t => (t.id, t.priority)), s.ports.events)) = some (.idle, [(1, 5)], []) := by
  decide +kernel
/-- P6: a queued ping is dropped. -/
theorem test_asleep_ping : (nextOf (exec (.tmNodeAsleep 0x05) (queued { txn none false 0 with isPing := true }))).map
    (fun s => (s.tm.q, s.ports.events)) = some ([], [.txnDone 1 (.failure .dropped none)]) := by decide +kernel
/-- V74. -/
theorem test_compare :
    let p : HostPins := { listening := [0x06], asleep := [], dead := [] }
    let t (id : TxnId) (node : Option NodeId) (created : Nat) : Txn := { txn none false 0 with id, node, priority := 3, created }
    (inOrder p [t 3 (some 0x05) 0, t 2 none 1, t 1 (some 0x06) 2]).map (fun t => t.id) = [1, 3, 2] := by decide +kernel
/-- V75: a transaction of a sleeping node is not eligible. -/
theorem test_eligible :
    nextTxn { queued (txn none false 0) with pins := { listening := [], asleep := [0x05], dead := [] } } = none := by decide +kernel

/-! ### System commands -/

/-- P6, its last line. -/
theorem test_reset : (nextOf (exec .sysReset { queued (txn none false 0) with fc.txq := [0x06] })).map
    (fun s => (s.fc.txq, s.tm.q, s.seq, s.ports.events)) = some ([], [], 0, [.txnDone 1 (.failure .driverDestroyed none)]) := by
  decide +kernel
/-- P6. -/
theorem test_destroy : (nextOf (exec .sysDestroy { queued (txn none false 0) with fc.txq := [0x06] })).map
    (fun s => (s.fc.txq, s.tm.q, s.tm.life)) = some ([0x06], [], .destroyed) := by decide +kernel
/-- The example of 43_nonce_and_security_ops.md R200. -/
theorem test_setid : (nextOf (exec (.sysSetid 0x01) State.reset)).map (fun s => s.se.ownid) = some (some 0x01) := by decide +kernel
/-- The example of 60_exceptions.md R364. -/
theorem test_status : replyOf (exec .sysStatus State.reset) = some (.status
    { st := .idle, ph := .none, keyvalid := false, life := .ready, queued := 0, nonces := 0, received := 0, toSend := 0 }) := by
  decide +kernel

/-! ### Cipher commands -/

/-- V30. -/
theorem test_setkey : (nextOf (exec (.seSetkey netKey) State.reset)).map (fun s => (s.se.authkey, s.se.enckey, s.se.keyvalid)) =
    some (authKey, encKey, true) := by decide +kernel
/-- V31. -/
theorem test_setkey_errors : replyOf (exec (.seSetkey netKey) blockA) = some (.error .precondition) ∧
    replyOf (exec (.seSetkey (netKey.drop 1)) State.reset) = some (.error .keyLength) := by decide +kernel
/-- V47: 17 bytes, so that the last uses the second block. -/
theorem test_encrypt : replyOf (exec (.seEncrypt ((List.range 17).map fun i => toByte (0x30 + i)) sn rn) blockA) =
    some (.bytes [0x41, 0x39, 0x05, 0x52, 0xB8, 0xDE, 0x29, 0x7C, 0x59, 0x87, 0xAC, 0xFC, 0xDE, 0xA3, 0x7A, 0x60, 0xDC]) := by
  decide +kernel
/-- V39. -/
theorem test_encrypt_errors : replyOf (exec (.seEncrypt plain40 sn rn) State.reset) = some (.error .noKey) ∧
    replyOf (exec (.seEncrypt plain40 (sn.drop 1) rn) blockA) = some (.error .nonceLength) := by decide +kernel
/-- V41. -/
theorem test_decrypt : replyOf (exec (.seDecrypt ct40 sn rn) blockA) = some (.bytes plain40) := by decide +kernel
/-- V42. -/
theorem test_mac : replyOf (exec (.seMac sn rn 0x81 0x01 0x05 ct40) blockA) = some (.bytes mac42) := by decide +kernel
/-- V46. -/
theorem test_mac_empty : replyOf (exec (.seMac sn rn 0x81 0x01 0x05 []) blockA) =
    some (.bytes [0x58, 0x59, 0xE8, 0x98, 0xE7, 0x57, 0x95, 0xB4]) := by decide +kernel
/-- V43. -/
theorem test_verify : replyOf (exec (.seVerify sn rn 0x81 0x01 0x05 ct40 mac42) blockA) = some (.truth true) ∧
    replyOf (exec (.seVerify sn rn 0x81 0x01 0x05 ct40 (0x32 :: mac42.drop 1)) blockA) = some (.truth false) := by
  decide +kernel
/-- V44. -/
theorem test_seal : (fun s : State => (s.ports.replies, s.se.nt, s.ports.drawn))
    (sealCommand config 0x05 0x81 plain40 none blockA) = ([.sealedParts sn ct40 0x11 mac42], [], 8) := by decide +kernel
/-- V44, its second seal. -/
theorem test_seal_spent : replyOf (exec (.seSeal 0x05 0x81 plain40 none) { blockA with se.nt := [] }) = some (.error .noNonce) := by
  decide +kernel
/-- 92_eei_decisions.md D42: a nonce that node 5 issued for node 2 is not spent by node 1, but when it is named. -/
theorem test_seal_other_node :
    (nextOf (exec (.seSeal 0x05 0x81 plain40 none) (keyed 0x01 0x05 0x02 true))).map (fun s => (s.ports.replies, s.se.nt.length)) =
      some ([.error .noNonce], 1) ∧
    (nextOf (exec (.seSeal 0x05 0x81 plain40 (some 0x11)) (keyed 0x01 0x05 0x02 true))).map (fun s => s.se.nt) = some [] := by
  decide +kernel
/-- V45 (a). -/
theorem test_open : (nextOf (exec (.seOpen 0x01 0x81 sn ct40 0x11 mac42) blockB)).map (fun s => (s.ports.replies, s.se.nt)) =
    some ([.bytes plain40], []) := by decide +kernel
/-- V45 (b): a wrong MAC spends the nonce. -/
theorem test_open_mismatch : (nextOf (exec (.seOpen 0x01 0x81 sn ct40 0x11 (0xB3 :: mac42.drop 1)) blockB)).map
    (fun s => (s.ports.replies, s.se.nt)) = some ([.error .macMismatch], []) := by decide +kernel

/-! ### Nonces -/

/-- V58, with `SN` as the draw. -/
theorem test_generate : (fun s : State => (s.ports.replies, s.se.nt, s.seq))
    (generateNonce config 0x05 { State.reset with se.ownid := some 0x01 }) =
      ([.bytes sn], [({ issuer := 0x01, id := 0xA0 }, { nonce := sn, receiver := 0x05, free := false, created := 0 })], 1) := by
  decide +kernel
/-- V57. -/
theorem test_generate_no_id : replyOf (exec (.ntGenerate 0x05) State.reset) = some (.error .precondition) := by decide +kernel
/-- V53: an entry is replaced. -/
theorem test_store : (nextOf (exec (.ntStore 0x05 [0x11, 9, 9, 9, 9, 9, 9, 9] 0x01 true) blockA)).map (fun s => (s.se.nt, s.seq)) =
    some ([({ issuer := 0x05, id := 0x11 }, { nonce := [0x11, 9, 9, 9, 9, 9, 9, 9], receiver := 0x01, free := true, created := 1 })],
      2) := by decide +kernel
/-- V56. -/
theorem test_store_length : replyOf (exec (.ntStore 0x05 [1, 2, 3] 0x01 true) State.reset) = some (.error .nonceLength) := by
  decide +kernel
/-- V51. -/
theorem test_findfree : (nextOf (exec (.ntFindfree 0x05) blockA)).map (fun s => (s.ports.replies, s.se.nt.map (fun x => x.2.free))) =
    some ([.found (some (0x11, rn))], [false]) := by decide +kernel
/-- V51, its third call. -/
theorem test_findfree_none : replyOf (exec (.ntFindfree 0x05) blockB) = some (.found none) := by decide +kernel
/-- V52. -/
theorem test_release : (nextOf (exec (.ntRelease 0x05 0x11) blockB)).map (fun s => s.se.nt.map (fun x => x.2.free)) = some [true] := by
  decide +kernel
/-- V55. -/
theorem test_release_absent : replyOf (exec (.ntRelease 0x05 0x12) blockB) = some (.error .nonceNotFound) := by decide +kernel
/-- V54. -/
theorem test_take : (nextOf (exec (.ntTake 0x05 0x11) blockA)).map (fun s => (s.ports.replies, s.se.nt)) = some ([.bytes rn], []) := by
  decide +kernel
/-- V54, its second take. -/
theorem test_take_absent : replyOf (exec (.ntTake 0x05 0x11) State.reset) = some (.error .nonceNotFound) := by decide +kernel
/-- The example of 43_nonce_and_security_ops.md R206. -/
theorem test_expire : (nextOf (exec (.ntExpire 0x05 0x11) blockA)).map (fun s => s.se.nt) = some [] := by decide +kernel

/-! ### Published vectors of the cipher core -/

/-- FIPS-197 appendix C.1, quoted in 42_cipher_core.md R168. -/
theorem test_aes : aesEnc ((List.range 16).map toByte) ((List.range 16).map fun i => toByte (17 * i)) =
    [0x69, 0xC4, 0xE0, 0xD8, 0x6A, 0x7B, 0x04, 0x30, 0xD8, 0xCD, 0xB7, 0x80, 0x70, 0xB4, 0xC5, 0x5A] := by decide +kernel

/-! ### Stepping -/

/-- A symbol whole at the front of the buffer is run before any move (log entry 3). -/
theorem test_step_symbol_first : (nextOf (step { State.reset with fc.rxbuf := [0x15, 0x01], sched := [.move .emit] })).map
    (fun s => (s.fc.rxbuf, s.fc.rxtmr, s.sched)) = some ([0x01], true, [.move .emit]) := by decide +kernel
/-- A placed table word is what the next step runs. -/
theorem test_fetch_word : (nextOf (step (State.reset.withFetchWord 8 0x03))).map (fun s => s.ports.replies.length) = some 1 := by
  decide +kernel

/-! ### Witnesses: for each statement with hypotheses, states and operands that meet them, clause by clause -/

/-- A secure transaction for node 5. -/
def secret (node : Option NodeId) (plain : Bytes) : Txn :=
  { txnHs none with secure := true, node, secCmd := 0x81, secPlain := plain }

/-- A table with all 256 ids of node 1. -/
def fullTable : NonceTable :=
  (List.range 256).map fun i =>
    ({ issuer := 0x01, id := toByte i }, { nonce := toByte i :: List.replicate 7 0, receiver := 0x05, free := false, created := i })

/-- A block whose table is full. -/
def fullBlock : State := { State.reset with se.ownid := some 0x01, se.nt := fullTable, seq := 256 }

theorem witness_CipherRoundTrip :
    blockA.se.keyvalid = true ∧ blockA.se.enckey.length = 16 ∧ blockA.se.authkey.length = 16 ∧ sn.length = 8 ∧ rn.length = 8 ∧
    (List.replicate 255 (0 : Byte)).length ≤ 255 := by decide +kernel
theorem witness_OfbKeystream : encKey.length = 16 ∧ (sn ++ rn).length = 16 ∧ 16 < (List.replicate 17 (0 : Byte)).length := by
  decide +kernel
theorem witness_CbcMacChain : netKey.length = 16 ∧ netKey ≠ [] ∧ 16 ∣ netKey.length ∧ encKey.length = 16 := by decide +kernel

/-- `SE.SEAL`: no key; a key without an id; 256 bytes; no nonce by id and by issuer; a nonce by id and by issuer. -/
theorem witness_SeSealSpendsNonce :
    State.reset.se.keyvalid = false ∧
    ({ blockA with se.ownid := none } : State).se.keyvalid = true ∧ ({ blockA with se.ownid := none } : State).se.ownid = none ∧
    (List.replicate 256 (0 : Byte)).length > 255 ∧ blockA.se.ownid = some 0x01 ∧ (List.replicate 255 (0 : Byte)).length ≤ 255 ∧
    ntFind { issuer := 0x05, id := 0x12 } blockA.se.nt = none ∧ (∀ x ∈ blockA.se.nt, ¬ issuedFor 0x06 0x01 x) ∧
    (∀ x ∈ (keyed 0x01 0x05 0x02 true).se.nt, ¬ issuedFor 0x05 0x01 x) ∧ ntFind { issuer := 0x05, id := 0x11 } blockA.se.nt ≠ none ∧ ¬ ∀ x ∈ blockA.se.nt, ¬ issuedFor 0x05 0x01 x := by decide +kernel

theorem witness_SealOpenRoundTrip :
    let sa : State := { blockA with se.nt := [] }
    let sb : State := { blockB with se.nt := [] }
    sa.se.keyvalid = true ∧ sb.se.keyvalid = true ∧ sa.se.authkey = sb.se.authkey ∧ sa.se.enckey = sb.se.enckey ∧
    sa.se.authkey.length = 16 ∧ sa.se.enckey.length = 16 ∧ sa.se.ownid = some 0x01 ∧ sb.se.ownid = some 0x05 ∧ NtInv sb ∧
    (∃ x : Byte, ∀ e, (({ issuer := 0x05, id := x }, e) : NonceKey × NonceEntry) ∉ sb.se.nt) ∧ plain40.length ≤ 255 ∧
    ∀ x ∈ sa.se.nt, ¬ issuedFor 0x05 0x01 x := by
  refine ⟨rfl, rfl, rfl, rfl, rfl, rfl, rfl, rfl, ⟨.nil, .nil, ?_⟩, ⟨0, ?_⟩, by decide, ?_⟩
  all_goals simp

/-- `NT.TAKE` and `SE.SEAL` answer with a nonce. -/
theorem witness_NonceSingleUse_take_seal :
    (∃ t, exec (.ntTake 0x05 0x11) blockA = .next t ∧ t.ports.replies = blockA.ports.replies ++ [.bytes rn]) ∧
    ∃ sn ct mac t, exec (.seSeal 0x05 0x81 [] none) blockA = .next t ∧
      t.ports.replies = blockA.ports.replies ++ [.sealedParts sn ct 0x11 mac] := ⟨⟨_, rfl, rfl⟩, _, _, _, _, rfl, rfl⟩
/-- `SE.OPEN` answers with the plaintext, and with a mismatch. -/
theorem witness_NonceSingleUse_open :
    replyOf (exec (.seOpen 0x01 0x81 sn ct40 0x11 mac42) blockB) = some (.bytes plain40) ∧
    replyOf (exec (.seOpen 0x01 0x81 sn ct40 0x11 sn) blockB) = some (.error .macMismatch) ∧ blockB.se.ownid = some 0x05 := by
  decide +kernel
/-- A nonce that is not stored, and the other conditions of the last clause. -/
theorem witness_NonceSingleUse_absent :
    ntFind { issuer := 0x05, id := 0x12 } blockB.se.nt = none ∧ blockB.se.keyvalid = true ∧ blockB.se.ownid = some 0x05 ∧
    plain40.length ≤ 255 ∧ sn.length = 8 ∧ mac42.length = 8 ∧ (List.replicate 255 (0 : Byte)).length ≤ 255 := by decide +kernel

theorem witness_FcInv_reset : FcInv State.reset := ⟨.inl rfl, by simp [State.reset, resetFc]⟩
theorem witness_FcInv_waiting : FcInv { State.reset with fc.rxbuf := [0x01, 0x05, 0x00], fc.rxtmr := true } :=
  ⟨.inr ⟨rfl, .inr (by decide)⟩, by simp⟩
/-- The boundary of an incomplete frame: one byte short of what its length byte declares. -/
theorem witness_FcInv_almost : FcInv { State.reset with fc.rxbuf := [0x01, 0x03, 0x00, 0x15], fc.rxtmr := true } :=
  ⟨.inr ⟨rfl, .inr (by decide)⟩, by simp⟩
/-- `RX.BYTE`: a byte that leaves the buffer incomplete, and one that completes a symbol. -/
theorem witness_RxByteRunsSymbols : decodeLine ([0x01, 0x05] ++ [0x00]) = .error .incomplete ∧
    decodeLine ([0x01, 0x03, 0x00, 0x15] ++ [0xE9]) = .ok (.dataReq 0x15 []) := by decide

/-- An entry that stays, and one that is stored by the instruction. -/
theorem witness_NonceLifecycle : FcInv State.reset ∧ FcInv blockA ∧
    (∃ t e, exec (.ntFindfree 0x05) blockA = .next t ∧ ntFind { issuer := 0x05, id := 0x11 } t.se.nt = some e) ∧
    ∃ t e, exec (.ntStore 0x05 rn 0x01 true) State.reset = .next t ∧ ntFind { issuer := 0x05, id := 0x11 } t.se.nt = some e :=
  ⟨witness_FcInv_reset, ⟨.inl rfl, by simp [blockA, keyed, State.reset, resetFc]⟩, ⟨_, _, rfl, rfl⟩, _, _, rfl, rfl⟩

/-- `NT.GENERATE` with an id to give. -/
theorem witness_NtGenerateStoresFreshNonce_free : State.reset.se.ownid = none ∧ blockB.se.ownid = some 0x05 ∧ NtInv blockB ∧
    ∃ x : Byte, ∀ e, (({ issuer := 0x05, id := x }, e) : NonceKey × NonceEntry) ∉ blockB.se.nt := by
  refine ⟨rfl, rfl, ⟨List.pairwise_singleton _ _, List.pairwise_singleton _ _, ?_⟩, 0x12, ?_⟩
  · intro x hx
    simp only [blockB, keyed, List.mem_singleton] at hx
    subst hx
    exact ⟨rfl, rfl, Nat.one_pos⟩
  · intro e he
    simp [blockB, keyed] at he
/-- `NT.GENERATE` with a full table. -/
theorem witness_NtGenerateStoresFreshNonce_full : fullBlock.se.ownid = some 0x01 ∧ NtInv fullBlock ∧
    ∀ x : Byte, ∃ e, (({ issuer := 0x01, id := x }, e) : NonceKey × NonceEntry) ∈ fullBlock.se.nt := by
  have hb (i : Nat) (h : i < 256) : (toByte i).toNat = i := by simp only [toByte, BitVec.toNat_ofNat]; omega
  refine ⟨rfl, ⟨?_, ?_, ?_⟩, fun x => ⟨{ nonce := x :: List.replicate 7 0, receiver := 0x05, free := false, created := x.toNat },
    List.mem_map.mpr ⟨x.toNat, List.mem_range.mpr x.isLt, ?_⟩⟩⟩
  · refine List.pairwise_map.mpr (List.Pairwise.imp_of_mem ?_ List.pairwise_lt_range)
    intro a b ha hc h
    have h1 := hb a (List.mem_range.mp ha)
    have h2 := hb b (List.mem_range.mp hc)
    simp only [keyRank, h1, h2]
    omega
  · exact List.pairwise_map.mpr (List.pairwise_lt_range.imp fun h => Nat.ne_of_lt h)
  · intro x hx
    obtain ⟨i, hi, rfl⟩ := List.mem_map.mp hx
    exact ⟨by simp, rfl, List.mem_range.mp hi⟩
  · have : toByte x.toNat = x := by apply BitVec.eq_of_toNat_eq; rw [hb _ x.isLt]
    simp [this]

theorem witness_NtStoreStoresNonce : ([1, 2, 3] : Bytes).length ≠ 8 ∧ rn.length = 8 := by decide
theorem witness_NtFindfreeReservesOldest :
    (∀ x ∈ blockB.se.nt, x.1.issuer = 0x05 → x.2.free = false) ∧ ∃ x ∈ blockA.se.nt, x.1.issuer = 0x05 ∧ x.2.free = true := by
  decide
/-- `NT.TAKE`, `NT.RELEASE`, `NT.EXPIRE`: an absent nonce and a stored one. -/
theorem witness_NtTakeDeletesNonce_NtReleaseFreesNonce_NtExpireDeletesNonce : ntFind { issuer := 0x05, id := 0x12 } blockA.se.nt = none ∧
    ntFind { issuer := 0x05, id := 0x11 } blockA.se.nt = some { nonce := rn, receiver := 0x01, free := true, created := 0 } := by
  decide

theorem witness_RxTimeoutDropsFrame_TxEmitSendsOldestByte :
    ({ State.reset with fc.rxtmr := true } : State).fc.rxtmr = true ∧ State.reset.fc.rxtmr = false ∧ State.reset.fc.txq = [] ∧
    ({ State.reset with fc.txq := [0x06] } : State).fc.txq = [0x06] := by decide
theorem witness_ParseSerialize : (List.replicate 252 (0 : Byte)).length ≤ 252 := by decide +kernel
theorem witness_SerializeParse :
    tryParse frame = .frame (.data { type := 0x00, funcId := 0x13, payload := [0x01], checksum := 0xE9 }) frame.length := by decide
theorem witness_ChecksumLaw : serialize 0x00 0x13 [0x01] = .ok frame := by decide
theorem witness_TryParseFirst : tryParse [0x06] ≠ .incomplete ∧ tryParse [0x01, 0x00] ≠ .incomplete := by decide

/-- `ACK`: not awaited; a reply expected; `execute` without one; a handshake without one. -/
theorem witness_AckEndsOrAwaitsReply :
    State.reset.tm.ph ≠ .waitAck ∧ activeExpect (busy .execute .waitAck .ack (txn (some 0) false 0)).tm ≠ none ∧
    (busy .execute .waitAck .ack (txn none false 0)).tm.cur = some (txn none false 0) ∧ (txn none false 0).msg.expect = none ∧
    (shaking .waitAck .ack (txnHs none)).tm.st = .handshake ∧ ((txnHs none).hsMsg.map fun h => h.expect) = some none := by
  decide
theorem witness_NakCanFailTheAttempt : State.reset.tm.ph ≠ .waitAck ∧ (busy .execute .waitAck .ack (txn none false 0)).tm.ph = .waitAck ∧
    (busy .execute .waitAck .ack (txn none false 0)).tm.cur = some (txn none false 0) := by decide
theorem witness_MessageUnsolicited : State.reset.tm.st = .idle ∧
    (busy .retryWait .none .retry (txn none false 1)).tm.st = .retryWait ∧
    (busy .execute .waitAck .ack (txn none false 0)).tm.ph ≠ .waitReply ∧
    (shaking .waitAck .ack (txnHs none)).tm.ph ≠ .waitReply := by decide
/-- A reply awaited by the transaction itself and by its handshake. -/
theorem witness_MessageInReply :
    (busy .execute .waitReply .resp (txn (some 7) false 0)).tm.ph = .waitReply ∧
    (busy .execute .waitReply .resp (txn (some 7) false 0)).tm.cur = some (txn (some 7) false 0) ∧
    activeExpect (busy .execute .waitReply .resp (txn (some 7) false 0)).tm = some 7 ∧
    (shaking .waitReply .resp (txnHs (some 8))).tm.ph = .waitReply ∧
    (shaking .waitReply .resp (txnHs (some 8))).tm.cur = some (txnHs (some 8)) ∧
    activeExpect (shaking .waitReply .resp (txnHs (some 8))).tm = some 8 := by decide
theorem witness_MessageInUpdate : (busy .waitForUpdate .none .upd (txn none true 0)).tm.st = .waitForUpdate ∧
    (busy .waitForUpdate .none .upd (txn none true 0)).tm.cur = some (txn none true 0) := by decide

theorem witness_TmTimeoutsFailTheAttempt : State.reset.tm.tmr ≠ .ack ∧ State.reset.tm.tmr ≠ .resp ∧ State.reset.tm.tmr ≠ .upd ∧
    (busy .execute .waitAck .ack (txn none false 0)).tm.tmr = .ack ∧
    (busy .execute .waitReply .resp (txn (some 0) false 0)).tm.tmr = .resp ∧
    (busy .waitForUpdate .none .upd (txn none true 0)).tm.tmr = .upd ∧
    (busy .waitForUpdate .none .upd (txn none true 0)).tm.cur = some (txn none true 0) := by decide
/-- The retry of a handshake, its payload at the largest length, and of the transaction itself. -/
theorem witness_TmTimeoutRetryStartsAgain : State.reset.tm.tmr ≠ .retry ∧
    ({ shaking .none .retry (txnHs none) with tm.st := .retryWait, tm.hsf := true } : State).tm.hsf = true ∧
    ((txnHs none).hsMsg.map fun h => decide (h.payload.length ≤ 252)) = some true ∧
    (List.replicate 252 (0 : Byte)).length ≤ 252 ∧
    (busy .retryWait .none .retry (txn none false 1)).tm.hsf = false ∧
    (busy .retryWait .none .retry (txn none false 1)).tm.tmr = .retry := by decide +kernel
/-- `entersExecute`, clause by clause: a latched frame; none; no node; no key; no id; too long; no nonce; a nonce. -/
theorem witness_entersExecute :
    (busy .retryWait .none .retry (txn none false 1)).tm.txframe = some frame ∧
    (queued (txn none false 0)).tm.txframe = none ∧ (txn none false 0).secure = false ∧ (txn none false 0).msg.payload.length ≤ 252 ∧
    (secret none []).secure = true ∧ (secret none []).node = none ∧ (secret (some 0x05) []).node = some 0x05 ∧
    State.reset.se.keyvalid = false ∧ blockA.se.keyvalid = true ∧ ({ blockA with se.ownid := none } : State).se.ownid = none ∧
    (secret (some 0x05) (List.replicate 256 0)).secPlain.length > 255 ∧
    (secret (some 0x05) (List.replicate 255 0)).secPlain.length ≤ 255 ∧ blockA.se.ownid = some 0x01 ∧
    (∀ x ∈ blockA.se.nt, ¬ issuedFor 0x06 0x01 x) ∧ ∃ x ∈ blockA.se.nt, issuedFor 0x05 0x01 x := by decide +kernel

/-- `TM.DISPATCH`: busy; destroyed; nothing eligible; enabled. -/
theorem witness_TmDispatchTakesLeast :
    (busy .execute .waitAck .ack (txn none false 0)).tm.st ≠ .idle ∧
    ({ State.reset with tm.life := .destroyed } : State).tm.life ≠ .ready ∧ (∀ x ∈ State.reset.tm.q, ¬ awake State.reset.pins x) ∧
    (queued (txn none false 0)).tm.st = .idle ∧ (queued (txn none false 0)).tm.life = .ready ∧
    ∃ x ∈ (queued (txn none false 0)).tm.q, awake (queued (txn none false 0)).pins x := by
  refine ⟨by decide, by decide, by simp [State.reset, resetTm], rfl, rfl, txn none false 0, by simp [queued], ?_⟩
  intro n _
  simp [queued, State.reset]
/-- `TM.DISPATCH`: without a handshake message none is needed, whatever the configuration; with one, the default rule needs
it for a secure transaction without a nonce. -/
theorem witness_TmDispatchTakesLeast_needHS : (∀ s : State, needHS Config.host (txn none false 0) s.se.nt = false) ∧
    needHS config (secret (some 0x05) []) [] = true := by
  refine ⟨fun s => ?_, by decide⟩
  unfold needHS needHSDefault
  split <;> simp [txn]

theorem witness_CompareOrder :
    let p : HostPins := { listening := [0x06], asleep := [], dead := [] }
    let t (node : NodeId) (priority created : Nat) : Txn := { txn none false 0 with node := some node, priority, created }
    sortsBefore p (t 5 2 0) (t 6 3 1) = true ∧ sortsBefore p (t 6 3 1) (t 5 3 0) = true ∧
    sortsBefore p (t 5 4 0) (t 6 4 1) = true ∧ (t 5 4 0).created ≠ (t 6 4 1).created := by decide
theorem witness_NeedHandshakeDefault : config.needHS = none := rfl

/-- A state with a queued transaction that meets the invariants of TM, and a step from it. -/
theorem witness_TmInv : TmInv (queued (txn none false 0)) ∧ ∃ t, step (queued (txn none false 0)) = .next t := by
  refine ⟨tmInv_of_idle ⟨List.pairwise_singleton _ _, List.pairwise_singleton _ _, ?_⟩ rfl, _, rfl⟩
  intro t ht
  simp only [queued, List.mem_singleton] at ht
  subst ht
  exact ⟨rfl, by decide, by decide, by simp [txn], by decide⟩
/-- TM waiting for an ACK, the ACK timer expiring next. -/
def waiting : State := { busy .execute .waitAck .ack (txn none false 0) with sched := [.move (.tmr [0x01])] }
/-- A busy state that meets the invariants of TM, and a step of a timer from it. -/
theorem witness_TmInv_busy : TmInv waiting ∧ ∃ t, step waiting = .next t := by
  refine ⟨⟨by decide, by decide, by unfold TimerInv; decide, ?_, ?_, ?_⟩, _, rfl⟩
  · refine ⟨fun h => (nomatch h), fun h => ?_, fun _ h => (nomatch h), fun h => (nomatch h)⟩
    rcases h with h | h
    · exact nomatch h
    · exact nomatch h.1
  · intro c hc
    simp only [waiting, busy, Option.some.injEq] at hc
    subst hc
    exact ⟨⟨rfl, by decide, by decide, by simp [txn], by decide⟩, by simp [waiting, busy, State.reset, resetTm]⟩
  · exact ⟨by simp [waiting, busy, State.reset, resetTm], by simp [waiting, busy, State.reset, resetTm],
      by simp [waiting, busy, State.reset, resetTm]⟩
/-- A block with a key and a nonce, a command coming next. -/
def taking : State := { blockB with sched := [.move (.cmd [0x24, 0x05, 0x11])] }
/-- The invariants of FC and of SE at it, and a step from it. -/
theorem witness_SeInv : FcInv taking ∧ KeyInv taking ∧ NtInv taking ∧ ∃ t, step taking = .next t :=
  ⟨⟨.inl rfl, by simp [taking, blockB, keyed, State.reset, resetFc]⟩, ⟨rfl, rfl, rfl⟩, witness_NtGenerateStoresFreshNonce_free.2.2.1, _, rfl⟩
/-- Two states that differ in the key registers only, no key being loaded. -/
theorem witness_KeysUnreadBeforeLoad :
    let s' : State := { State.reset with se.netkey := netKey, se.authkey := authKey, se.enckey := encKey }
    State.reset.se.keyvalid = false ∧ keyless State.reset = keyless s' ∧ State.reset ≠ s' ∧
    ∃ t, exec (.seEncrypt plain40 sn rn) State.reset = .next t := ⟨rfl, rfl, by decide, _, rfl⟩
/-- The three ways the key registers are written, and the bytes, events and replies that go out. -/
theorem witness_KeysWrittenOnce_OutputOnlyGrows :
    (∃ t, exec (.seSetkey netKey) State.reset = .next t) ∧ (∃ t, exec .sysReset blockA = .next t) ∧
    (∃ t, exec .sysStatus blockA = .next t) ∧ ∃ t, exec .txEmit { State.reset with fc.txq := [0x06] } = .next t :=
  ⟨⟨_, rfl⟩, ⟨_, rfl⟩, ⟨_, rfl⟩, _, rfl⟩
/-- A transaction that is added, and one that is settled. -/
theorem witness_TransactionsConserved : TmInv (queued (txn none false 0)) ∧
    (∃ t, exec (.tmAdd { spec none [] false with id := 2 }) (queued (txn none false 0)) = .next t) ∧
    ∃ t, exec (.tmReject .all .dropped) (queued (txn none false 0)) = .next t := ⟨witness_TmInv.1, ⟨_, rfl⟩, _, rfl⟩
theorem witness_CommandsAnswer : isHostCommand .sysStatus = true ∧ isHostCommand (.seOpen 0x01 0x81 sn ct40 0x11 mac42) = true ∧
    isHostCommand .txEmit = false := by decide
/-- A step: a symbol; a move; bytes that are no command; new host predicates; nothing. -/
theorem witness_StepRunsDecoded :
    decodeLine [0x15, 0x01] = .ok .nak ∧ decodeLine State.reset.fc.rxbuf = .error .incomplete ∧
    decodeMove (.cmd [0x22, 0x05]) = .ok (.ntFindfree 0x05) ∧ decodeCmd [0x7F] = .error (.unknownCommand 0x7F) ∧
    ({ State.reset with sched := [.pins { listening := [], asleep := [0x07], dead := [] }] } : State).sched ≠ [] ∧
    State.reset.sched = [] := by decide
/-- Instructions at the ends of their ranges. -/
theorem witness_DecodeEncode : (Instr.dataReq 0x13 (List.replicate 252 0)).wf = true ∧ (Instr.dataBadlen 0 []).wf = true ∧
    (Instr.dataBadlen 2 [0, 0]).wf = true ∧ (Instr.dataCsfail 3 [0x00, 0x15, 0xE8]).wf = true ∧
    (Instr.dataOther 0x02 0x15 []).wf = true ∧ (Instr.skip 0xFF).wf = true ∧ (Instr.tmReject .all .precondition).wf = true := by
  decide +kernel

end Sys2Proof.Tests
end

/-! SUPPORT. The rules of the whole machine (spec/00_scope.md R9, R10, R15): when an instruction's step is enabled, how a host
command answers, and what a step runs. -/

namespace Sys2Proof.Machine

/-! ### When a step is enabled -/

/-- The step of an instruction is enabled in `s` (00_scope.md R15): only `TX.EMIT` (41_frame_encode.md R144), `TM.DISPATCH`
(44_transaction_fsm.md R251) and the timers (R246, 40_frame_decode.md R124, 43_nonce_and_security_ops.md R206) have a
condition. -/
def enabled (s : State) : Instr → Prop
  | .txEmit => s.fc.txq ≠ []
  | .tmDispatch => s.tm.st = .idle ∧ s.tm.life = .ready ∧ ∃ x ∈ s.tm.q, awake s.pins x
  | .tmTimeoutAck => s.tm.tmr = .ack
  | .tmTimeoutResp => s.tm.tmr = .resp
  | .tmTimeoutUpd => s.tm.tmr = .upd
  | .tmTimeoutRetry => s.tm.tmr = .retry
  | .rxTimeout => s.fc.rxtmr = true
  | .ntExpire issuer id => (ntFind { issuer, id } s.se.nt).isSome = true
  | _ => True

/-- The outcome `r` is a next state when `p` holds, and a fault when it does not; a refusal it never is. -/
def RunsIff (p : Prop) (r : Result) : Prop := (p ∧ ∃ t, r = .next t) ∨ (¬ p ∧ ∃ f, r = .fault f)

theorem runsIff_next (t : State) : RunsIff True (.next t) := .inl ⟨trivial, t, rfl⟩

theorem runsIff_ite (p : Prop) [Decidable p] (t : State) (f : Fault) : RunsIff p (if p then .next t else .fault f) := by
  by_cases hp : p
  · exact .inl ⟨hp, t, if_pos hp⟩
  · exact .inr ⟨hp, f, if_neg hp⟩

theorem RunsIff.ne_refused {p : Prop} {r : Result} (h : RunsIff p r) (x : Refusal) : r ≠ .refused x := by
  obtain ⟨-, t, rfl⟩ | ⟨-, f, rfl⟩ := h <;> exact nofun

theorem RunsIff.fault_iff {p : Prop} {r : Result} (h : RunsIff p r) : (∃ f, r = .fault f) ↔ ¬ p := by
  obtain ⟨hp, t, rfl⟩ | ⟨hp, hf⟩ := h
  · exact ⟨nofun, fun hn => absurd hp hn⟩
  · exact ⟨fun _ => hp, fun _ => hf⟩

/-- There is a transaction to take exactly when the node of a queued one is not asleep. -/
theorem nextTxn_eq_none_iff_awake {s : State} : nextTxn s = none ↔ ∀ x ∈ s.tm.q, ¬ awake s.pins x := by
  simp only [nextTxn_eq_none, ← isEligible_iff, Bool.not_eq_true]

theorem execTxEmit_runsIff (s : State) : RunsIff (s.fc.txq ≠ []) (execTxEmit s) := by
  unfold execTxEmit
  split
  · next h => exact .inr ⟨not_not.mpr h, _, rfl⟩
  · next h => exact .inl ⟨by simp [h], _, rfl⟩

theorem execTmDispatch_runsIff (s : State) : RunsIff (enabled s .tmDispatch) (execTmDispatch s) := by
  unfold execTmDispatch
  split
  · next hidle =>
    split
    · next hnone => exact .inr ⟨fun ⟨_, _, x, hx, ha⟩ => nextTxn_eq_none_iff_awake.mp hnone x hx ha, _, rfl⟩
    · next t hsome =>
      obtain ⟨hq, he, -⟩ := nextTxn_spec hsome
      exact .inl ⟨⟨hidle.1, hidle.2, t, hq, isEligible_iff.mp he⟩, _, rfl⟩
  · next hbusy => exact .inr ⟨fun ⟨hst, hlife, _⟩ => hbusy ⟨hst, hlife⟩, _, rfl⟩

/-- Every instruction runs when its step is enabled and is stuck when it is not. -/
theorem exec_runsIff (i : Instr) (s : State) : RunsIff (enabled s i) (exec i s) := by
  cases i with
  | txEmit => exact execTxEmit_runsIff s
  | tmDispatch => exact execTmDispatch_runsIff s
  | tmTimeoutAck => exact runsIff_ite (s.tm.tmr = .ack) _ _
  | tmTimeoutResp => exact runsIff_ite (s.tm.tmr = .resp) _ _
  | tmTimeoutUpd => exact runsIff_ite (s.tm.tmr = .upd) _ _
  | tmTimeoutRetry => exact runsIff_ite (s.tm.tmr = .retry) _ _
  | rxTimeout => exact runsIff_ite (s.fc.rxtmr = true) _ _
  | ntExpire issuer id => exact runsIff_ite ((ntFind { issuer, id } s.se.nt).isSome = true) _ _
  | _ => exact runsIff_next _

/-- Where a step is not enabled, instruction by instruction. -/
theorem not_enabled_iff (i : Instr) (s : State) : ¬ enabled s i ↔
    (i = .txEmit ∧ s.fc.txq = []) ∨
    (i = .tmDispatch ∧ (s.tm.st ≠ .idle ∨ s.tm.life ≠ .ready ∨ ∀ x ∈ s.tm.q, ¬ awake s.pins x)) ∨
    (i = .tmTimeoutAck ∧ s.tm.tmr ≠ .ack) ∨ (i = .tmTimeoutResp ∧ s.tm.tmr ≠ .resp) ∨
    (i = .tmTimeoutUpd ∧ s.tm.tmr ≠ .upd) ∨ (i = .tmTimeoutRetry ∧ s.tm.tmr ≠ .retry) ∨
    (i = .rxTimeout ∧ s.fc.rxtmr = false) ∨
    ∃ issuer id, i = .ntExpire issuer id ∧ ntFind { issuer, id } s.se.nt = none := by
  cases i with
  | tmDispatch => simp [enabled, ← imp_iff_not_or]
  | ntExpire issuer id => simp [enabled]
  | _ => simp [enabled]

/-- Settles O56: stuck is the same as not enabled. -/
theorem stuckExactlyWhenNotEnabled : Obligations.StuckExactlyWhenNotEnabled := fun i s =>
  ⟨(exec_runsIff i s).ne_refused, (exec_runsIff i s).fault_iff.trans (not_enabled_iff i s)⟩

/-! ### How a command answers -/

theorem reportAll_replies (o : TxnOutcome) (ts : List Txn) (s : State) :
    (reportAll o ts s).ports.replies = s.ports.replies := by rw [reportAll_eq]

theorem purge_replies (p : Txn → Bool) (o : TxnOutcome) (s : State) : (purge p o s).ports.replies = s.ports.replies := by
  have hq : (purgeQueue p o s).ports.replies = s.ports.replies := reportAll_replies ..
  unfold purge
  split
  · exact (procFrame_finalize o _).replies.trans hq
  · exact hq

theorem sleepQueue_replies (c : Config) (n : NodeId) (s : State) :
    (sleepQueue c n s).ports.replies = s.ports.replies := reportAll_replies ..

theorem sleepCurrent_replies (n : NodeId) (s : State) : (sleepCurrent n s).ports.replies = s.ports.replies := by
  unfold sleepCurrent
  split
  · rfl
  · split
    · split
      · exact (procFrame_finalize _ s).replies
      · rfl
    · rfl

/-- A result that is no error. -/
def Reply.good : Reply → Prop
  | .error _ => False
  | _ => True

/-- From `s` to `t` a command has returned one result: an error, with nothing else changed, or a good one after writes that
returned nothing (60_exceptions.md R352). -/
def Answers (s t : State) : Prop :=
  (∃ e, t = raise e s) ∨ ∃ r u, r.good ∧ u.ports.replies = s.ports.replies ∧ t = answer r u

theorem answers_raise (e : ErrCode) (s : State) : Answers s (raise e s) := .inl ⟨e, rfl⟩

theorem answers_answer {r : Reply} {s u : State} (hr : r.good) (hu : u.ports.replies = s.ports.replies) :
    Answers s (answer r u) := .inr ⟨r, u, hr, hu, rfl⟩

theorem answers_setKey (key : Bytes) (s : State) : Answers s (setKey key s) := by
  unfold setKey
  split
  · exact answers_raise ..
  · split
    · exact answers_raise ..
    · exact answers_answer trivial rfl

theorem answers_crypt (data sn rn : Bytes) (s : State) : Answers s (crypt data sn rn s) := by
  unfold crypt
  split
  · exact answers_raise ..
  · split
    · exact answers_raise ..
    · exact answers_answer trivial rfl

theorem answers_computeMac (sn rn : Bytes) (i : Byte) (a b : NodeId) (ct : Bytes) (s : State) :
    Answers s (computeMac sn rn i a b ct s) := by
  unfold computeMac
  split
  · exact answers_raise ..
  · exact answers_answer trivial rfl

theorem answers_verifyMac (sn rn : Bytes) (i : Byte) (a b : NodeId) (ct mac : Bytes) (s : State) :
    Answers s (verifyMac sn rn i a b ct mac s) := by
  unfold verifyMac
  split
  · exact answers_raise ..
  · exact answers_answer trivial rfl

theorem answers_sealCommand (c : Config) (r : NodeId) (i : Byte) (p : Bytes) (n : Option Byte) (s : State) :
    Answers s (sealCommand c r i p n s) := by
  unfold sealCommand
  cases hk : sealChecks r p n s with
  | error e => rw [sealMessage_error c hk]; exact answers_raise ..
  | ok x => rw [sealMessage_ok c hk]; exact answers_answer trivial rfl

theorem answers_generateNonce (c : Config) (n : NodeId) (s : State) : Answers s (generateNonce c n s) := by
  unfold generateNonce
  split
  · exact answers_raise ..
  · split
    · exact answers_raise ..
    · exact answers_answer trivial rfl

theorem answers_keepNonce (i : NodeId) (n : Bytes) (r : NodeId) (free : Bool) (s : State) :
    Answers s (keepNonce i n r free s) := by
  unfold keepNonce
  split
  · exact answers_raise ..
  · exact answers_answer trivial rfl

theorem answers_findFree (i : NodeId) (s : State) : Answers s (findFree i s) := by
  unfold findFree
  split
  · exact answers_answer trivial rfl
  · exact answers_answer trivial rfl

theorem answers_releaseNonce (k : NonceKey) (s : State) : Answers s (releaseNonce k s) := by
  unfold releaseNonce
  split
  · exact answers_raise ..
  · exact answers_answer trivial rfl

theorem answers_takeNonce (k : NonceKey) (s : State) : Answers s (takeNonce k s) := by
  unfold takeNonce
  split
  · exact answers_raise ..
  · exact answers_answer trivial rfl

theorem answers_addTxn (t : TxnSpec) (s : State) : Answers s (addTxn t s) := by
  unfold addTxn
  split
  · exact answers_raise ..
  · exact answers_answer trivial rfl

/-- The checks of `SE.OPEN` pass in a block with a node id only. -/
theorem openChecks_ownid {sender : NodeId} {sn ct : Bytes} {id : Byte} {mac : Bytes} {s : State} {own : NodeId}
    {e : NonceEntry} (h : openChecks sender sn ct id mac s = .ok (own, e)) : s.se.ownid = some own := by
  unfold openChecks at h
  split at h
  · nomatch h
  · split at h
    · nomatch h
    · next ho =>
      split at h
      · nomatch h
      · split at h
        · nomatch h
        · split at h
          · nomatch h
          · split at h
            · nomatch h
            · cases h; exact ho

/-- `SE.OPEN` from `s` has found another MAC than the one given, and spent the nonce `id` (43_nonce_and_security_ops.md
R212). -/
def MacMismatched (id : Byte) (s t : State) : Prop :=
  ∃ own, s.se.ownid = some own ∧ t = raise .macMismatch (dropNonce { issuer := own, id } s)

theorem answers_openMessage (sender : NodeId) (i : Byte) (sn ct : Bytes) (id : Byte) (mac : Bytes) (s : State) :
    Answers s (openMessage sender i sn ct id mac s) ∨ MacMismatched id s (openMessage sender i sn ct id mac s) := by
  unfold openMessage
  split
  · exact .inl (answers_raise ..)
  · next own e hk =>
    dsimp only
    split
    · exact .inr ⟨own, openChecks_ownid hk, rfl⟩
    · exact .inl (answers_answer trivial rfl)

/-- What a host command leaves: one result, which only for `SE.OPEN` can be an error that changed something. -/
theorem exec_hostCommand {i : Instr} (s : State) (hi : isHostCommand i = true) :
    ∃ t, exec i s = .next t ∧ (Answers s t ∨
      ∃ sender cmd sn ct id mac, i = .seOpen sender cmd sn ct id mac ∧ MacMismatched id s t) := by
  cases i with
  | seOpen sender cmd sn ct id mac =>
    refine ⟨_, rfl, ?_⟩
    exact (answers_openMessage sender cmd sn ct id mac s).imp_right fun h => ⟨_, _, _, _, _, _, rfl, h⟩
  | sysReset => exact ⟨_, rfl, .inl (answers_answer trivial (reportAll_replies ..))⟩
  | sysDestroy => exact ⟨_, rfl, .inl (answers_answer trivial (purge_replies ..))⟩
  | sysSetid id => exact ⟨_, rfl, .inl (answers_answer trivial rfl)⟩
  | sysStatus => exact ⟨_, rfl, .inl (answers_answer trivial rfl)⟩
  | seSetkey key => exact ⟨_, rfl, .inl (answers_setKey ..)⟩
  | seEncrypt p sn rn => exact ⟨_, rfl, .inl (answers_crypt ..)⟩
  | seDecrypt c sn rn => exact ⟨_, rfl, .inl (answers_crypt ..)⟩
  | seMac sn rn cmd a b ct => exact ⟨_, rfl, .inl (answers_computeMac ..)⟩
  | seVerify sn rn cmd a b ct mac => exact ⟨_, rfl, .inl (answers_verifyMac ..)⟩
  | seSeal r cmd p n => exact ⟨_, rfl, .inl (answers_sealCommand ..)⟩
  | ntGenerate n => exact ⟨_, rfl, .inl (answers_generateNonce ..)⟩
  | ntStore issuer n r free => exact ⟨_, rfl, .inl (answers_keepNonce ..)⟩
  | ntFindfree issuer => exact ⟨_, rfl, .inl (answers_findFree ..)⟩
  | ntRelease issuer id => exact ⟨_, rfl, .inl (answers_releaseNonce ..)⟩
  | ntTake issuer id => exact ⟨_, rfl, .inl (answers_takeNonce ..)⟩
  | tmAdd t => exact ⟨_, rfl, .inl (answers_addTxn ..)⟩
  | tmReject p reason => exact ⟨_, rfl, .inl (answers_answer trivial (purge_replies ..))⟩
  | tmNodeAsleep n =>
    exact ⟨_, rfl, .inl (answers_answer trivial ((sleepCurrent_replies ..).trans (sleepQueue_replies ..)))⟩
  | _ => exact nomatch hi

/-- Settles O57, by what each command leaves. -/
theorem commandsAnswer : Obligations.CommandsAnswer := by
  intro i s hi
  obtain ⟨t, hnext, h⟩ := exec_hostCommand s hi
  obtain (⟨e, rfl⟩ | ⟨r, u, hr, hu, rfl⟩) | ⟨sender, cmd, sn, ct, id, mac, rfl, own, ho, rfl⟩ := h
  · exact ⟨_, .error e, hnext, rfl, fun _ he => .inl (by cases he; rfl)⟩
  · exact ⟨_, r, hnext, by rw [answer_replies, hu], fun _ he => by cases he; exact hr.elim⟩
  · exact ⟨_, .error .macMismatch, hnext, rfl, fun _ he => .inr (by
      cases he
      exact ⟨rfl, sender, cmd, sn, ct, id, mac, own, rfl, ho, rfl⟩)⟩

/-! ### What a step runs -/

/-- A symbol at the decode position is fetched first (10_state.md R51; log entry 3). -/
theorem fetch_symbol {s : State} {i : Instr} (h : decodeLine s.fc.rxbuf = .ok i) : fetch s = .symbol i := by
  simp only [fetch, h]

/-- Without a symbol the environment's next item is fetched (log entry 1). -/
theorem fetch_input {s : State} {e : DecodeError} (h : decodeLine s.fc.rxbuf = .error e) :
    fetch s = fetchInput s.sched := by
  simp only [fetch, h]

theorem fetchMove_ok {m : Move} {i : Instr} (h : decodeMove m = .ok i) (rest : List Input) :
    fetchMove m rest = .instr i rest := by
  simp only [fetchMove, h]

theorem fetchMove_badCommand {w : Bytes} {e : DecodeError} (h : decodeCmd w = .error e) (rest : List Input) :
    fetchMove (.cmd w) rest = .badCommand rest := by
  simp only [fetchMove, decodeMove, h]

theorem step_symbol {s : State} {i : Instr} (h : decodeLine s.fc.rxbuf = .ok i) :
    step s = mapNext lineTimer (exec i s) := by
  simp only [step, fetch_symbol h]

theorem step_move {s : State} {e : DecodeError} {m : Move} {i : Instr} {rest : List Input}
    (hline : decodeLine s.fc.rxbuf = .error e) (hs : s.sched = .move m :: rest) (hm : decodeMove m = .ok i) :
    step s = exec i (setSched rest s) := by
  simp only [step, fetch_input hline, hs, fetchInput, fetchMove_ok hm]

theorem step_badCommand {s : State} {e e' : DecodeError} {w : Bytes} {rest : List Input}
    (hline : decodeLine s.fc.rxbuf = .error e) (hs : s.sched = .move (.cmd w) :: rest) (hw : decodeCmd w = .error e') :
    step s = .next (raise .precondition (setSched rest s)) := by
  simp only [step, fetch_input hline, hs, fetchInput, fetchMove_badCommand hw, refuseCommand]

theorem step_pins {s : State} {e : DecodeError} {p : HostPins} {rest : List Input}
    (hline : decodeLine s.fc.rxbuf = .error e) (hs : s.sched = .pins p :: rest) :
    step s = .next (setPins p (setSched rest s)) := by
  simp only [step, fetch_input hline, hs, fetchInput]

theorem step_wait {s : State} {e : DecodeError} (hline : decodeLine s.fc.rxbuf = .error e) (hs : s.sched = []) :
    step s = .next s := by
  simp only [step, fetch_input hline, hs, fetchInput]

/-- Settles O58: each clause is what `step` does with one form of the fetch. -/
theorem stepRunsDecoded : Obligations.StepRunsDecoded := by
  refine ⟨fun s i h => ?_, fun s e m i rest hline hs hm => step_move hline hs hm,
    fun s e w e' rest hline hs hw => step_badCommand hline hs hw, fun s e p rest hline hs => step_pins hline hs,
    fun s e hline hs => step_wait hline hs⟩
  rw [step_symbol h]
  cases exec i s with
  | next t => rfl
  | fault f => rfl
  | refused r => rfl

end Sys2Proof.Machine

/-! SUPPORT. What every instruction and every step keeps (spec/10_state.md R21 to R23, R31, R33, R42, R53): the key registers,
the nonce table in order, what went out on the ports, the receive buffer between steps; and that nothing reads the key
registers while no key is loaded. -/

namespace Sys2Proof.Machine

/-! ### The nonce table stays in order -/

theorem nonceEntryOk_mono {a b : Nat} (h : a ≤ b) {x : NonceKey × NonceEntry} (hx : nonceEntryOk a x) :
    nonceEntryOk b x :=
  ⟨hx.1, hx.2.1, Nat.lt_of_lt_of_le hx.2.2 h⟩

/-- `NtInv` reads the nonce table and `SEQ` only, and lets `SEQ` count on. -/
theorem NtInv.congr {s t : State} (h : NtInv s) (hnt : t.se.nt = s.se.nt) (hseq : s.seq ≤ t.seq) : NtInv t := by
  obtain ⟨hkeys, hstamps, hentries⟩ := h
  unfold NtInv
  rw [hnt]
  exact ⟨hkeys, hstamps, fun x hx => nonceEntryOk_mono hseq (hentries x hx)⟩

/-- Putting an entry with a new stamp keeps the stamps distinct. -/
theorem stampsDistinct_ntPut {k : NonceKey} {e : NonceEntry} {t : NonceTable}
    (ht : t.Pairwise fun x y => x.2.created ≠ y.2.created) (he : ∀ x ∈ t, x.2.created ≠ e.created) :
    (ntPut k e t).Pairwise fun x y => x.2.created ≠ y.2.created := by
  induction t with
  | nil => exact List.pairwise_singleton _ _
  | cons x rest ih =>
    obtain ⟨hx, hrest⟩ := List.pairwise_cons.mp ht
    obtain ⟨hex, herest⟩ := List.forall_mem_cons.mp he
    simp only [ntPut]
    split
    · exact List.pairwise_cons.mpr ⟨fun y hy => (he y hy).symm, ht⟩
    · split
      · exact List.pairwise_cons.mpr ⟨fun y hy => (herest y hy).symm, hrest⟩
      · refine List.pairwise_cons.mpr ⟨fun y hy => ?_, ih hrest herest⟩
        rcases mem_ntPut hy with rfl | hy
        · exact hex
        · exact hx y hy

theorem head?_eq_getD {n : Bytes} (h : n.length = 8) : n.head? = some (n.getD 0 0) := by
  cases n with
  | nil => nomatch h
  | cons b rest => rfl

/-- Storing eight bytes under their first one keeps the table in order: the stamp is `SEQ`, which no entry has. -/
theorem ntInv_storeNonce {s : State} {nonce : Bytes} (h : NtInv s) (hn : nonce.length = 8) (issuer receiver : NodeId)
    (free : Bool) : NtInv (storeNonce issuer nonce receiver free s) := by
  obtain ⟨hkeys, hstamps, hentries⟩ := h
  refine ⟨ntSorted_ntPut hkeys, stampsDistinct_ntPut hstamps fun x hx => Nat.ne_of_lt (hentries x hx).2.2, fun x hx => ?_⟩
  rcases mem_ntPut hx with rfl | hx
  · exact ⟨hn, head?_eq_getD hn, Nat.lt_succ_self _⟩
  · exact nonceEntryOk_mono (Nat.le_succ _) (hentries x hx)

theorem ntInv_dropNonce {s : State} (h : NtInv s) (k : NonceKey) : NtInv (dropNonce k s) := by
  obtain ⟨hkeys, hstamps, hentries⟩ := h
  exact ⟨ntSorted_ntDelete hkeys, hstamps.filter _, fun x hx => hentries x (List.mem_of_mem_filter hx)⟩

/-- Freeing or reserving an entry keeps its stamp. -/
theorem stampsDistinct_ntSetFree {k : NonceKey} {v : Bool} {t : NonceTable}
    (ht : t.Pairwise fun x y => x.2.created ≠ y.2.created) :
    (ntSetFree k v t).Pairwise fun x y => x.2.created ≠ y.2.created := by
  unfold ntSetFree
  rw [List.pairwise_map]
  refine ht.imp fun {x y} hxy => ?_
  split <;> split <;> exact hxy

theorem ntInv_setFree {s : State} (h : NtInv s) (k : NonceKey) (v : Bool) : NtInv (setNt (ntSetFree k v s.se.nt) s) := by
  obtain ⟨hkeys, hstamps, hentries⟩ := h
  refine ⟨ntSorted_ntSetFree hkeys, stampsDistinct_ntSetFree hstamps, fun x hx => ?_⟩
  obtain ⟨y, hy, rfl⟩ := List.mem_map.mp hx
  split <;> exact hentries y hy

theorem freshNonce_length (c : Config) (own : NodeId) (s : State) : (freshNonce c own s).length = 8 := by
  have hd := drawn_length c Config.nonceLen s
  unfold freshNonce
  split
  · next h => rw [h] at hd; exact nomatch hd
  · next h => rw [h] at hd; exact hd

/-! ### The procedures of the transaction machine keep the nonce table in order -/

theorem ntInv_finalize {s : State} (h : NtInv s) (o : TxnOutcome) : NtInv (finalize o s) := by
  cases hc : s.tm.cur with
  | none => rwa [finalize_none hc]
  | some c => rw [finalize_eq hc]; exact h.congr rfl le_rfl

theorem ntInv_fail {s : State} (h : NtInv s) (e : ErrCode) : NtInv (fail e s) := by
  cases hc : s.tm.cur with
  | none => rwa [fail_none hc]
  | some c =>
    rw [fail_eq hc, failedWith]
    split
    · exact h.congr rfl le_rfl
    · exact h.congr rfl le_rfl

theorem ntInv_enterHandshake {s : State} (h : NtInv s) : NtInv (enterHandshake s) := by
  have hst : NtInv (setSt .handshake s) := h.congr rfl le_rfl
  unfold enterHandshake
  split
  · exact h
  · split
    · exact h
    · split
      · exact hst.congr rfl le_rfl
      · exact ntInv_finalize hst _

/-- Sealing spends one nonce, or leaves the state as it is. -/
theorem ntInv_sealMessage (cfg : Config) {s : State} (h : NtInv s) (r : NodeId) (i : Byte) (p : Bytes)
    (n : Option Byte) : NtInv (sealMessage cfg r i p n s).1 := by
  unfold sealMessage
  split
  · exact h
  · next k _ _ => exact (ntInv_dropNonce h _).congr rfl le_rfl

theorem ntInv_materialize (cfg : Config) {s : State} (h : NtInv s) (t : Txn) : NtInv (materialize cfg t s).1 := by
  unfold materialize
  split
  · exact h
  · split
    · exact h
    · next n _ =>
      have hs := ntInv_sealMessage cfg h n t.secCmd t.secPlain none
      revert hs
      rcases sealMessage cfg n t.secCmd t.secPlain none s with ⟨s', e | p⟩
      · exact id
      · dsimp only
        split
        · exact id
        · exact id

theorem ntInv_buildError {s : State} (h : NtInv s) (e : ErrCode) (t : Txn) : NtInv (buildError e t s) := by
  unfold buildError
  split
  · exact ntInv_fail h _
  · exact ntInv_finalize h _

theorem ntInv_sendBuilt {s : State} (h : NtInv s) (t : Txn) (p : Bytes) : NtInv (sendBuilt t p s) := by
  unfold sendBuilt
  split
  · exact h.congr rfl le_rfl
  · exact ntInv_buildError h _ t

theorem ntInv_enterExecute (cfg : Config) {s : State} (h : NtInv s) : NtInv (enterExecute cfg s) := by
  have hst : NtInv (setSt .execute s) := h.congr rfl le_rfl
  unfold enterExecute
  split
  · exact h
  · next t _ =>
    split
    · exact hst.congr rfl le_rfl
    · have hm := ntInv_materialize cfg hst t
      revert hm
      rcases materialize cfg t (setSt .execute s) with ⟨s', e | p⟩
      · exact fun hm => ntInv_buildError hm e t
      · exact fun hm => ntInv_sendBuilt hm t p

/-- The nonce of a handshake reply is eight bytes (44_transaction_fsm.md R262). -/
theorem ntInv_storeReplyNonce (cfg : Config) {s : State} (h : NtInv s) (r : Option Message) :
    NtInv (storeReplyNonce cfg r s) := by
  unfold storeReplyNonce
  split
  · next n i o _ _ _ => exact ntInv_storeNonce h n.length_toList i o false
  · exact h

theorem ntInv_primitiveSuccess (cfg : Config) {s : State} (h : NtInv s) (r : Option Message) :
    NtInv (primitiveSuccess cfg r s) := by
  have hend : NtInv (endPrimitive s) := h.congr rfl le_rfl
  unfold primitiveSuccess
  split
  · have hlatch : NtInv (latchReply r (endPrimitive s)) := hend.congr rfl le_rfl
    exact ntInv_enterExecute cfg (ntInv_storeReplyNonce cfg hlatch r)
  · unfold executeSuccess
    split
    · exact hend
    · split
      · exact hend.congr rfl le_rfl
      · exact ntInv_finalize hend _
  · exact h
  · exact h
  · exact h

theorem ntInv_emit {s : State} (h : NtInv s) (e : Event) : NtInv (emit e s) := h.congr rfl le_rfl

theorem ntInv_linkAck (cfg : Config) {s : State} (h : NtInv s) : NtInv (linkAck cfg s) := by
  unfold linkAck
  split
  · split
    · exact ntInv_primitiveSuccess cfg h none
    · exact h.congr rfl le_rfl
  · exact h

theorem ntInv_linkNak {s : State} (h : NtInv s) : NtInv (linkNak s) := by
  unfold linkNak
  split
  · exact ntInv_fail h _
  · exact h

theorem ntInv_linkCan {s : State} (h : NtInv s) : NtInv (linkCan s) := by
  unfold linkCan
  split
  · exact ntInv_fail h _
  · exact h

theorem ntInv_msgInReply (cfg : Config) (m : Message) {s : State} (h : NtInv s) : NtInv (msgInReply cfg m s) := by
  unfold msgInReply
  split
  · exact ntInv_primitiveSuccess cfg h _
  · exact h
  · exact ntInv_fail h _
  · exact ntInv_emit h _

theorem ntInv_msgInUpdate (cfg : Config) (m : Message) {s : State} (h : NtInv s) : NtInv (msgInUpdate cfg m s) := by
  unfold msgInUpdate
  split
  · exact ntInv_emit h _
  · split
    · exact ntInv_finalize h _
    · exact ntInv_emit h _

theorem ntInv_msg (cfg : Config) (m : Message) {s : State} (h : NtInv s) : NtInv (msg cfg m s) := by
  unfold msg
  split
  · split
    · exact ntInv_msgInReply cfg m h
    · exact ntInv_emit h _
  · split
    · exact ntInv_msgInReply cfg m h
    · exact ntInv_emit h _
  · exact ntInv_msgInUpdate cfg m h
  · exact ntInv_emit h _
  · exact ntInv_emit h _

/-- One symbol of the line keeps the nonce table in order. -/
theorem ntInv_handleOutcome (cfg : Config) (o : ParseOutcome) {s : State} (h : NtInv s) :
    NtInv (handleOutcome cfg o s) := by
  have hcon (n : Nat) : NtInv (consume n s) := h.congr rfl le_rfl
  have hacc (n : Nat) : NtInv (acceptFrame n s) := h.congr rfl le_rfl
  match o with
  | .incomplete => exact h
  | .skip n => exact hcon n
  | .frame .ack n => exact ntInv_linkAck cfg (hcon n)
  | .frame .nak n => exact ntInv_linkNak (hcon n)
  | .frame .can n => exact ntInv_linkCan (hcon n)
  | .frame (.data d) n =>
    simp only [handleOutcome, dispatchData]
    split
    · exact ntInv_msg cfg _ (hacc n)
    · exact ntInv_emit (hacc n) _
  | .invalid .checksum n => exact h.congr rfl le_rfl
  | .invalid .length n => exact h.congr rfl le_rfl

/-! ### What an instruction keeps -/

/-- What every instruction but `TX.EMIT`, `SYS.RESET` and `SE.SETKEY` keeps: the key registers and the line are unchanged,
the nonce table stays in order, `TXQ`, the events and the replies are only added to. -/
structure Keeps (s t : State) : Prop where
  netkey : t.se.netkey = s.se.netkey
  authkey : t.se.authkey = s.se.authkey
  enckey : t.se.enckey = s.se.enckey
  keyvalid : t.se.keyvalid = s.se.keyvalid
  nt : NtInv s → NtInv t
  wire : t.ports.wire = s.ports.wire
  txq : s.fc.txq <+: t.fc.txq
  events : s.ports.events <+: t.ports.events
  replies : s.ports.replies <+: t.ports.replies

/-- The same of an instruction that receives nothing: the receive buffer and its timer are unchanged too. -/
structure KeepsLine (s t : State) : Prop extends Keeps s t where
  rxbuf : t.fc.rxbuf = s.fc.rxbuf
  rxtmr : t.fc.rxtmr = s.fc.rxtmr

theorem Keeps.trans {s t u : State} (h : Keeps s t) (h' : Keeps t u) : Keeps s u where
  netkey := h'.netkey.trans h.netkey
  authkey := h'.authkey.trans h.authkey
  enckey := h'.enckey.trans h.enckey
  keyvalid := h'.keyvalid.trans h.keyvalid
  nt := h'.nt ∘ h.nt
  wire := h'.wire.trans h.wire
  txq := h.txq.trans h'.txq
  events := h.events.trans h'.events
  replies := h.replies.trans h'.replies

theorem KeepsLine.trans {s t u : State} (h : KeepsLine s t) (h' : KeepsLine t u) : KeepsLine s u where
  toKeeps := h.toKeeps.trans h'.toKeeps
  rxbuf := h'.rxbuf.trans h.rxbuf
  rxtmr := h'.rxtmr.trans h.rxtmr

theorem ProcFrame.keepsLine {s t : State} (h : ProcFrame s t) (hn : NtInv s → NtInv t) : KeepsLine s t :=
  { h with nt := hn, replies := h.replies ▸ List.prefix_refl _ }

theorem KeepsLine.refl (s : State) : KeepsLine s s := (ProcFrame.refl s).keepsLine id

/-- Writes that leave the key registers alone, given what they do to the rest. -/
theorem Keeps.of_se {s t : State} (hse : t.se = { s.se with ownid := t.se.ownid, nt := t.se.nt })
    (hnt : NtInv s → NtInv t) (hwire : t.ports.wire = s.ports.wire) (htxq : s.fc.txq <+: t.fc.txq)
    (hevents : s.ports.events <+: t.ports.events) (hreplies : s.ports.replies <+: t.ports.replies) : Keeps s t where
  netkey := by rw [hse]
  authkey := by rw [hse]
  enckey := by rw [hse]
  keyvalid := by rw [hse]
  nt := hnt
  wire := hwire
  txq := htxq
  events := hevents
  replies := hreplies

/-- Writes that send nothing out and leave FC and the key registers alone. -/
theorem KeepsLine.of_quiet {s t : State} (hnt : NtInv s → NtInv t) (hf : t.fc = s.fc)
    (hse : t.se = { s.se with ownid := t.se.ownid, nt := t.se.nt })
    (hp : t.ports = { s.ports with drawn := t.ports.drawn, choices := t.ports.choices }) : KeepsLine s t where
  toKeeps := .of_se hse hnt (by rw [hp]) (by rw [hf]) (by rw [hp]) (by rw [hp])
  rxbuf := by rw [hf]
  rxtmr := by rw [hf]

/-- Writes of the registers of TM, of `SEQ` and of the free choices. -/
theorem KeepsLine.of_tm {s t : State} (hf : t.fc = s.fc) (hse : t.se = s.se) (hseq : s.seq ≤ t.seq)
    (hp : t.ports = { s.ports with choices := t.ports.choices }) : KeepsLine s t :=
  .of_quiet (fun h => h.congr (by rw [hse]) hseq) hf (by rw [hse]) (by rw [hp])

theorem keepsLine_answer (r : Reply) (s : State) : KeepsLine s (answer r s) where
  toKeeps := .of_se rfl (fun h => h.congr rfl le_rfl) rfl (List.prefix_refl _) (List.prefix_refl _)
    (List.prefix_append _ _)
  rxbuf := rfl
  rxtmr := rfl

theorem keepsLine_raise (e : ErrCode) (s : State) : KeepsLine s (raise e s) := keepsLine_answer (.error e) s

theorem KeepsLine.answer {s t : State} (h : KeepsLine s t) (r : Reply) : KeepsLine s (answer r t) :=
  h.trans (keepsLine_answer r t)

theorem keepsLine_storeNonce {nonce : Bytes} (hn : nonce.length = 8) (issuer receiver : NodeId) (free : Bool) (s : State) :
    KeepsLine s (storeNonce issuer nonce receiver free s) :=
  .of_quiet (fun h => ntInv_storeNonce h hn issuer receiver free) rfl rfl rfl

theorem keepsLine_dropNonce (k : NonceKey) (s : State) : KeepsLine s (dropNonce k s) :=
  .of_quiet (fun h => ntInv_dropNonce h k) rfl rfl rfl

theorem keepsLine_setFree (k : NonceKey) (v : Bool) (s : State) : KeepsLine s (setNt (ntSetFree k v s.se.nt) s) :=
  .of_quiet (fun h => ntInv_setFree h k v) rfl rfl rfl

theorem keepsLine_spend (n : Nat) (s : State) : KeepsLine s (spend n s) :=
  .of_quiet (fun h => h.congr rfl le_rfl) rfl rfl rfl

theorem keepsLine_setQ (q : List Txn) (s : State) : KeepsLine s (setQ q s) := .of_tm rfl rfl le_rfl rfl

theorem keepsLine_reportAll (o : TxnOutcome) (ts : List Txn) (s : State) : KeepsLine s (reportAll o ts s) := by
  rw [reportAll_eq]
  exact {
    toKeeps := .of_se rfl (fun h => h.congr rfl le_rfl) rfl (List.prefix_refl _) (List.prefix_append _ _)
      (List.prefix_refl _)
    rxbuf := rfl
    rxtmr := rfl }

/-! ### The commands of SE -/

theorem keepsLine_crypt (data sn rn : Bytes) (s : State) : KeepsLine s (crypt data sn rn s) := by
  unfold crypt
  split
  · exact keepsLine_raise ..
  · split
    · exact keepsLine_raise ..
    · exact keepsLine_answer ..

theorem keepsLine_computeMac (sn rn : Bytes) (i : Byte) (a b : NodeId) (ct : Bytes) (s : State) :
    KeepsLine s (computeMac sn rn i a b ct s) := by
  unfold computeMac
  split
  · exact keepsLine_raise ..
  · exact keepsLine_answer ..

theorem keepsLine_verifyMac (sn rn : Bytes) (i : Byte) (a b : NodeId) (ct mac : Bytes) (s : State) :
    KeepsLine s (verifyMac sn rn i a b ct mac s) := by
  unfold verifyMac
  split
  · exact keepsLine_raise ..
  · exact keepsLine_answer ..

theorem keepsLine_sealCommand (c : Config) (r : NodeId) (i : Byte) (p : Bytes) (n : Option Byte) (s : State) :
    KeepsLine s (sealCommand c r i p n s) := by
  unfold sealCommand sealMessage
  cases sealChecks r p n s with
  | error e => exact keepsLine_raise e s
  | ok x => exact ((keepsLine_dropNonce x.2.1 s).trans (keepsLine_spend _ _)).answer _

theorem keepsLine_openMessage (sender : NodeId) (i : Byte) (sn ct : Bytes) (id : Byte) (mac : Bytes) (s : State) :
    KeepsLine s (openMessage sender i sn ct id mac s) := by
  unfold openMessage
  split
  · exact keepsLine_raise ..
  · dsimp only
    split
    · exact (keepsLine_dropNonce _ s).answer _
    · exact (keepsLine_dropNonce _ s).answer _

theorem keepsLine_generateNonce (c : Config) (n : NodeId) (s : State) : KeepsLine s (generateNonce c n s) := by
  unfold generateNonce
  split
  · exact keepsLine_raise ..
  · next own _ =>
    split
    · exact keepsLine_raise ..
    · exact ((keepsLine_storeNonce (freshNonce_length c own s) own n false s).trans (keepsLine_spend _ _)).answer _

theorem keepsLine_keepNonce (i : NodeId) (n : Bytes) (r : NodeId) (free : Bool) (s : State) :
    KeepsLine s (keepNonce i n r free s) := by
  unfold keepNonce
  split
  · exact keepsLine_raise ..
  · next hn => exact (keepsLine_storeNonce (not_not.mp hn) i r free s).answer _

theorem keepsLine_findFree (i : NodeId) (s : State) : KeepsLine s (findFree i s) := by
  unfold findFree
  split
  · exact keepsLine_answer ..
  · exact (keepsLine_setFree _ false s).answer _

theorem keepsLine_releaseNonce (k : NonceKey) (s : State) : KeepsLine s (releaseNonce k s) := by
  unfold releaseNonce
  split
  · exact keepsLine_raise ..
  · exact (keepsLine_setFree k true s).answer _

theorem keepsLine_takeNonce (k : NonceKey) (s : State) : KeepsLine s (takeNonce k s) := by
  unfold takeNonce
  split
  · exact keepsLine_raise ..
  · exact (keepsLine_dropNonce k s).answer _

/-! ### The steps and the commands of TM -/

theorem keepsLine_finalize (o : TxnOutcome) (s : State) : KeepsLine s (finalize o s) :=
  (procFrame_finalize o s).keepsLine fun h => ntInv_finalize h o

theorem keepsLine_fail (e : ErrCode) (s : State) : KeepsLine s (fail e s) :=
  (procFrame_fail e s).keepsLine fun h => ntInv_fail h e

theorem keepsLine_enterHandshake (s : State) : KeepsLine s (enterHandshake s) :=
  (procFrame_enterHandshake s).keepsLine ntInv_enterHandshake

theorem keepsLine_enterExecute (c : Config) (s : State) : KeepsLine s (enterExecute c s) :=
  (procFrame_enterExecute c s).keepsLine (ntInv_enterExecute c)

theorem keepsLine_dispatchTxn (c : Config) (t : Txn) (s : State) : KeepsLine s (dispatchTxn c t s) := by
  have hcur : KeepsLine s (makeCurrent t s) := .of_tm rfl rfl le_rfl rfl
  unfold dispatchTxn
  split
  · exact hcur.trans (keepsLine_enterHandshake _)
  · exact hcur.trans (keepsLine_enterExecute c _)

theorem keepsLine_retryAttempt (c : Config) (s : State) : KeepsLine s (retryAttempt c s) := by
  have hoff : KeepsLine s (disarm s) := .of_tm rfl rfl le_rfl rfl
  unfold retryAttempt
  split
  · exact hoff.trans (keepsLine_enterHandshake _)
  · exact hoff.trans (keepsLine_enterExecute c _)

theorem keepsLine_addTxn (t : TxnSpec) (s : State) : KeepsLine s (addTxn t s) := by
  unfold addTxn
  split
  · exact keepsLine_raise ..
  · have hqueue : KeepsLine s (stamp (setQ (qInsert (txnOfSpec t s.seq) s.tm.q) s)) := .of_tm rfl rfl (Nat.le_succ _) rfl
    exact hqueue.answer _

theorem keepsLine_purge (p : Txn → Bool) (o : TxnOutcome) (s : State) : KeepsLine s (purge p o s) := by
  have hqueue : KeepsLine s (purgeQueue p o s) := (keepsLine_setQ _ s).trans (keepsLine_reportAll o _ _)
  unfold purge
  split
  · exact hqueue.trans (keepsLine_finalize o _)
  · exact hqueue

theorem keepsLine_sleepQueue (c : Config) (n : NodeId) (s : State) : KeepsLine s (sleepQueue c n s) := by
  have hchoose (u : State) : KeepsLine u (choose u) := .of_tm rfl rfl le_rfl rfl
  exact ((keepsLine_setQ _ s).trans (hchoose _)).trans (keepsLine_reportAll _ _ _)

theorem keepsLine_sleepCurrent (n : NodeId) (s : State) : KeepsLine s (sleepCurrent n s) := by
  unfold sleepCurrent
  split
  · exact .refl s
  · split
    · split
      · exact keepsLine_finalize _ s
      · exact .of_tm rfl rfl le_rfl rfl
    · exact .refl s

/-! ### The symbols of the line -/

/-- Taking a symbol off the receive buffer and queueing FC's answer to it. -/
theorem keeps_linkPart (o : ParseOutcome) (s : State) : Keeps s (linkPart o s) :=
  .of_se rfl (fun h => h.congr rfl le_rfl) rfl (List.prefix_append _ _) (List.prefix_refl _) (List.prefix_refl _)

theorem keeps_handleOutcome (c : Config) (o : ParseOutcome) (s : State) : Keeps s (handleOutcome c o s) :=
  (keeps_linkPart o s).trans
    ((procFrame_handleOutcome c o s).keepsLine fun h => ntInv_handleOutcome c o (h.congr rfl le_rfl)).toKeeps

theorem keeps_acceptUnknown (n : Nat) (type funcId : Byte) (payload : Bytes) (s : State) :
    Keeps s (acceptUnknown n type funcId payload s) :=
  .of_se rfl (fun h => h.congr rfl le_rfl) rfl (List.prefix_append _ _) (List.prefix_append _ _) (List.prefix_refl _)

theorem keeps_receiveLoop (c : Config) (fuel : Nat) (s : State) : Keeps s (receiveLoop c fuel s) := by
  induction fuel generalizing s with
  | zero => exact (KeepsLine.refl s).toKeeps
  | succ fuel ih =>
    unfold receiveLoop
    split
    · exact (KeepsLine.refl s).toKeeps
    · exact (keeps_handleOutcome c _ s).trans (ih _)

/-- Writes of the registers of FC that only add to `TXQ`. -/
theorem Keeps.of_fc {s t : State} (hse : t.se = s.se) (hseq : t.seq = s.seq) (hp : t.ports = s.ports)
    (hq : s.fc.txq <+: t.fc.txq) : Keeps s t :=
  .of_se (by rw [hse]) (fun h => h.congr (by rw [hse]) hseq.ge) (by rw [hp]) hq (by rw [hp]) (by rw [hp])

theorem keeps_receiveByte (c : Config) (b : Byte) (s : State) : Keeps s (receiveByte c b s) := by
  have hb : Keeps s (receive b s) := .of_fc rfl rfl rfl (List.prefix_refl _)
  have htimer (u : State) : Keeps u (lineTimer u) := .of_fc rfl rfl rfl (List.prefix_refl _)
  exact (hb.trans (keeps_receiveLoop c _ _)).trans (htimer _)

/-! ### Every instruction -/

/-- Every next state that the outcome `r` gives satisfies `P`. -/
def Leaves (P : State → Prop) (r : Result) : Prop := ∀ t, r = .next t → P t

theorem leaves_next {P : State → Prop} {t : State} (h : P t) : Leaves P (.next t) := fun _ ht => by cases ht; exact h

theorem leaves_fault {P : State → Prop} (f : Fault) : Leaves P (.fault f) := fun _ ht => by cases ht

theorem leaves_ite {P : State → Prop} {p : Prop} [Decidable p] {t : State} {f : Fault} (h : P t) :
    Leaves P (if p then .next t else .fault f) := by
  split
  · exact leaves_next h
  · exact leaves_fault f

theorem Leaves.mono {P Q : State → Prop} {r : Result} (h : Leaves P r) (hpq : ∀ t, P t → Q t) : Leaves Q r :=
  fun t ht => hpq t (h t ht)

/-- The instructions that neither receive nor transmit on the line, nor write the key registers. -/
def isInner : Instr → Bool
  | .ack => false
  | .nak => false
  | .can => false
  | .dataBadlen _ _ => false
  | .dataCsfail _ _ => false
  | .dataReq _ _ => false
  | .dataRes _ _ => false
  | .dataOther _ _ _ => false
  | .skip _ => false
  | .rxByte _ => false
  | .txEmit => false
  | .rxTimeout => false
  | .sysReset => false
  | .seSetkey _ => false
  | _ => true

theorem keepsLine_exec {i : Instr} (s : State) (hi : isInner i = true) : Leaves (KeepsLine s) (exec i s) := by
  cases i with
  | dataEncode type funcId payload =>
    refine leaves_next ?_
    cases serialize type funcId payload with
    | ok f => exact keepsLine_answer ..
    | error e => exact keepsLine_raise ..
  | tmDispatch =>
    simp only [exec, execTmDispatch]
    split
    · split
      · exact leaves_fault _
      · exact leaves_next (keepsLine_dispatchTxn ..)
    · exact leaves_fault _
  | tmTimeoutAck => exact leaves_ite (keepsLine_fail ..)
  | tmTimeoutResp => exact leaves_ite (keepsLine_fail ..)
  | tmTimeoutUpd => exact leaves_ite (keepsLine_fail ..)
  | tmTimeoutRetry => exact leaves_ite (keepsLine_retryAttempt ..)
  | ntExpire issuer id => exact leaves_ite (keepsLine_dropNonce ..)
  | sysDestroy =>
    have hdestroy (u : State) : KeepsLine u (destroy u) := .of_tm rfl rfl le_rfl rfl
    exact leaves_next (((keepsLine_purge _ _ s).trans (hdestroy _)).answer _)
  | sysSetid id =>
    have hid : KeepsLine s (setOwnid id s) := .of_quiet (fun h => h.congr rfl le_rfl) rfl rfl rfl
    exact leaves_next (hid.answer _)
  | sysStatus => exact leaves_next (keepsLine_answer ..)
  | seEncrypt p sn rn => exact leaves_next (keepsLine_crypt ..)
  | seDecrypt c sn rn => exact leaves_next (keepsLine_crypt ..)
  | seMac sn rn cmd a b ct => exact leaves_next (keepsLine_computeMac ..)
  | seVerify sn rn cmd a b ct mac => exact leaves_next (keepsLine_verifyMac ..)
  | seSeal r cmd p n => exact leaves_next (keepsLine_sealCommand ..)
  | seOpen sender cmd sn ct id mac => exact leaves_next (keepsLine_openMessage ..)
  | ntGenerate n => exact leaves_next (keepsLine_generateNonce ..)
  | ntStore issuer n r free => exact leaves_next (keepsLine_keepNonce ..)
  | ntFindfree issuer => exact leaves_next (keepsLine_findFree ..)
  | ntRelease issuer id => exact leaves_next (keepsLine_releaseNonce ..)
  | ntTake issuer id => exact leaves_next (keepsLine_takeNonce ..)
  | tmAdd t => exact leaves_next (keepsLine_addTxn ..)
  | tmReject p reason => exact leaves_next ((keepsLine_purge _ _ s).answer _)
  | tmNodeAsleep n => exact leaves_next (((keepsLine_sleepQueue _ n s).trans (keepsLine_sleepCurrent n _)).answer _)
  | _ => exact nomatch hi

/-- `SE.SETKEY` loads the keys when they have the right length and none are loaded, else it answers an error. -/
theorem setKey_cases (key : Bytes) (s : State) :
    (∃ e, setKey key s = raise e s) ∨ (key.length = 16 ∧ s.se.keyvalid = false ∧
      setKey key s = answer .done (loadKeys key (authKeyOf key) (encKeyOf key) s)) := by
  unfold setKey
  split
  · exact .inl ⟨_, rfl⟩
  · next hlen =>
    split
    · exact .inl ⟨_, rfl⟩
    · next hvalid => exact .inr ⟨not_not.mp hlen, by simpa using hvalid, rfl⟩

/-- `TX.EMIT` sends the byte at the front of `TXQ`. -/
theorem leaves_txEmit {P : State → Prop} {s : State} (h : ∀ b rest, s.fc.txq = b :: rest → P (emitByte b rest s)) :
    Leaves P (exec .txEmit s) := by
  simp only [exec, execTxEmit]
  split
  · exact leaves_fault _
  · next b rest hq => exact leaves_next (h b rest hq)

/-- What an instruction can do beyond what `Keeps` allows: send a byte, reset, load the keys. -/
inductive Writes (s : State) : Instr → State → Prop
  | emit (b : Byte) (rest : Bytes) (h : s.fc.txq = b :: rest) : Writes s .txEmit (emitByte b rest s)
  | reset : Writes s .sysReset
      (answer .done (resetRegs (reportAll (.failure .driverDestroyed none) (unsettled s) s)))
  | load (key : Bytes) (hlen : key.length = 16) (hvalid : s.se.keyvalid = false) : Writes s (.seSetkey key)
      (answer .done (loadKeys key (authKeyOf key) (encKeyOf key) s))

/-- Everything an instruction can do to the key registers, the nonce table, `TXQ` and the ports. -/
theorem exec_cases (i : Instr) (s : State) : Leaves (fun t => Keeps s t ∨ Writes s i t) (exec i s) := by
  cases i with
  | ack => exact leaves_next (.inl (keeps_handleOutcome Config.host (.frame .ack 1) s))
  | nak => exact leaves_next (.inl (keeps_handleOutcome Config.host (.frame .nak 1) s))
  | can => exact leaves_next (.inl (keeps_handleOutcome Config.host (.frame .can 1) s))
  | dataBadlen len _ => exact leaves_next (.inl (keeps_handleOutcome Config.host (.invalid .length (len.toNat + 2)) s))
  | dataCsfail len _ => exact leaves_next (.inl (keeps_handleOutcome Config.host (.invalid .checksum (len.toNat + 2)) s))
  | dataReq funcId payload =>
    exact leaves_next (.inl (keeps_handleOutcome Config.host
      (.frame (.data ⟨Config.typeReq, funcId, payload, 0⟩) (frameLength payload)) s))
  | dataRes funcId payload =>
    exact leaves_next (.inl (keeps_handleOutcome Config.host
      (.frame (.data ⟨Config.typeRes, funcId, payload, 0⟩) (frameLength payload)) s))
  | dataOther type funcId payload => exact leaves_next (.inl (keeps_acceptUnknown ..))
  | skip _ => exact leaves_next (.inl (keeps_handleOutcome Config.host (.skip 1) s))
  | rxByte b => exact leaves_next (.inl (keeps_receiveByte ..))
  | rxTimeout => exact leaves_ite (.inl (.of_fc rfl rfl rfl (List.prefix_append _ _)))
  | txEmit => exact leaves_txEmit fun b rest hq => .inr (.emit b rest hq)
  | sysReset => exact leaves_next (.inr .reset)
  | seSetkey key =>
    refine leaves_next ?_
    rcases setKey_cases key s with ⟨e, he⟩ | ⟨hlen, hvalid, he⟩
    · exact .inl (he ▸ (keepsLine_raise e s).toKeeps)
    · exact .inr (he ▸ .load key hlen hvalid)
  | _ => exact (keepsLine_exec s rfl).mono fun _ h => .inl h.toKeeps

/-! ### Reset, the key registers, the output -/

/-- Settles O1: each register of `State.reset` is written out in its definition. -/
theorem resetRegisters : Obligations.ResetRegisters := ⟨rfl, rfl, rfl, rfl, rfl, rfl, rfl, rfl⟩

/-- Settles O53, by what an instruction can write. -/
theorem keysWrittenOnce : Obligations.KeysWrittenOnce := by
  intro i s t h
  rcases exec_cases i s t h with hk | hw
  · exact .inl ⟨hk.netkey, hk.authkey, hk.enckey, hk.keyvalid⟩
  · cases hw with
    | emit b rest _ => exact .inl ⟨rfl, rfl, rfl, rfl⟩
    | reset => exact .inr (.inl rfl)
    | load key hlen hvalid => exact .inr (.inr ⟨key, rfl, hlen, hvalid⟩)

/-- Settles O54, by what an instruction can write: `TX.EMIT` moves a byte to the line, reset reports what it settles, and
loading the keys only answers. -/
theorem outputOnlyGrows : Obligations.OutputOnlyGrows := by
  intro i s t h
  rcases exec_cases i s t h with hk | hw
  · exact ⟨fun _ _ => hk.txq, hk.events, hk.replies, hk.wire ▸ List.prefix_refl _, fun _ => hk.wire⟩
  · cases hw with
    | emit b rest _ =>
      exact ⟨fun hemit => absurd rfl hemit, List.prefix_refl _, List.prefix_refl _, List.prefix_append _ _,
        fun hemit => absurd rfl hemit⟩
    | reset =>
      have hr := keepsLine_reportAll (.failure .driverDestroyed none) (unsettled s) s
      exact ⟨fun _ hreset => absurd rfl hreset, hr.events, hr.replies.trans (List.prefix_append _ _),
        hr.wire ▸ List.prefix_refl _, fun _ => hr.wire⟩
    | load key _ _ =>
      exact ⟨fun _ _ => List.prefix_refl _, List.prefix_refl _, List.prefix_append _ _, List.prefix_refl _, fun _ => rfl⟩

/-! ### What a step can be -/

/-- A step runs the symbol at the decode position, or the instruction of an agent's move, or takes over new host predicates,
or refuses a command, or waits. -/
theorem step_cases {s t : State} (h : step s = .next t) :
    (∃ i u, decodeLine s.fc.rxbuf = .ok i ∧ exec i s = .next u ∧ t = lineTimer u) ∨
    (∃ m i rest, decodeMove m = .ok i ∧ exec i (setSched rest s) = .next t) ∨
    (∃ p rest, t = setPins p (setSched rest s)) ∨ (∃ rest, t = raise .precondition (setSched rest s)) ∨ t = s := by
  cases hline : decodeLine s.fc.rxbuf with
  | ok i =>
    rw [step_symbol hline] at h
    cases hi : exec i s with
    | next u => rw [hi] at h; cases h; exact .inl ⟨i, u, rfl, hi, rfl⟩
    | fault f => rw [hi] at h; nomatch h
    | refused r => rw [hi] at h; nomatch h
  | error e =>
    refine .inr ?_
    match hs : s.sched with
    | [] => rw [step_wait hline hs] at h; cases h; exact .inr (.inr (.inr rfl))
    | .pins p :: rest => rw [step_pins hline hs] at h; cases h; exact .inr (.inl ⟨p, rest, rfl⟩)
    | .move m :: rest =>
      cases hm : decodeMove m with
      | ok i => rw [step_move hline hs hm] at h; exact .inl ⟨m, i, rest, hm, h⟩
      | error e' =>
        cases m with
        | cmd w => rw [step_badCommand hline hs hm] at h; cases h; exact .inr (.inr (.inl ⟨rest, rfl⟩))
        | tmr w =>
          simp only [step, fetch_input hline, hs, fetchInput, fetchMove, hm] at h
          nomatch h
        | _ => nomatch hm

/-! ### The invariant of SE -/

theorem Keeps.keyInv {s t : State} (h : Keeps s t) (hs : KeyInv s) : KeyInv t := by
  unfold KeyInv
  rw [h.netkey, h.authkey, h.enckey]
  exact hs

/-- An instruction keeps the key registers 16 bytes wide and the nonce table in order. -/
theorem seInv_exec {i : Instr} {s t : State} (hs : KeyInv s ∧ NtInv s) (h : exec i s = .next t) : KeyInv t ∧ NtInv t := by
  rcases exec_cases i s t h with hk | hw
  · exact ⟨hk.keyInv hs.1, hk.nt hs.2⟩
  · cases hw with
    | emit b rest _ => exact ⟨hs.1, hs.2.congr rfl le_rfl⟩
    | reset => exact ⟨⟨rfl, rfl, rfl⟩, .nil, .nil, List.forall_mem_nil _⟩
    | load key hlen _ =>
      have hauth : (authKeyOf key).length = 16 := aesEnc_length key kdAuth hlen
      have henc : (encKeyOf key).length = 16 := aesEnc_length key kdEnc hlen
      refine ⟨?_, hs.2.congr rfl le_rfl⟩
      simp only [KeyInv, answer_se, loadKeys_netkey, loadKeys_authkey, loadKeys_enckey]
      exact ⟨hlen, hauth, henc⟩

/-- Settles O50: a step runs an instruction or writes no register of SE. -/
theorem stepKeepsSeInv : Obligations.StepKeepsSeInv := by
  intro s t hs h
  have hsched (rest : List Input) : KeyInv (setSched rest s) ∧ NtInv (setSched rest s) :=
    ⟨hs.1, hs.2.congr rfl le_rfl⟩
  rcases step_cases h with ⟨i, u, -, hi, rfl⟩ | ⟨m, i, rest, -, hi⟩ | ⟨p, rest, rfl⟩ | ⟨rest, rfl⟩ | rfl
  · have hu := seInv_exec hs hi
    exact ⟨hu.1, hu.2.congr rfl le_rfl⟩
  · exact seInv_exec (hsched rest) hi
  · exact ⟨hs.1, hs.2.congr rfl le_rfl⟩
  · exact ⟨hs.1, hs.2.congr rfl le_rfl⟩
  · exact hs

/-! ### What a move on a port can be -/

/-- Every value the reader `p` reads satisfies `P`. -/
def Reads {α : Type} (P : α → Prop) (p : Reader α) : Prop := ∀ w a rest, p w = some (a, rest) → P a

theorem reads_done {α : Type} {P : α → Prop} {a : α} (h : P a) : Reads P (readDone a) := by
  intro w b rest hb
  cases hb
  exact h

theorem reads_then {α β : Type} {P : β → Prop} {p : Reader α} {k : α → Reader β} (h : ∀ a, Reads P (k a)) :
    Reads P (readThen p k) := by
  intro w b rest hb
  unfold readThen at hb
  split at hb
  · nomatch hb
  · next a r _ => exact h a r b rest hb

/-- What the operand reader of a command code reads is a host command (30_encoding.md R92). -/
theorem commandReader_reads {code : Byte} {p : Reader Instr} (h : commandReader code = some p) :
    Reads (fun i => isHostCommand i = true) p := by
  unfold commandReader at h
  split at h <;> cases h
  all_goals repeat first | exact reads_done rfl | refine reads_then fun _ => ?_

/-- The instruction is a symbol of the line (30_encoding.md R89). -/
def isSymbol (i : Instr) : Bool :=
  match encode i with
  | .line _ => true
  | .port _ => false

theorem isSymbol_hostCommand {i : Instr} (h : isHostCommand i = true) : isSymbol i = false := by
  unfold isHostCommand at h
  unfold isSymbol
  cases he : encode i with
  | line buf => rw [he] at h; nomatch h
  | port m => rfl

theorem isSymbol_decodeCmd {w : Bytes} {i : Instr} (h : decodeCmd w = .ok i) : isSymbol i = false := by
  unfold decodeCmd at h
  split at h
  · nomatch h
  · split at h
    · nomatch h
    · next p hp =>
      split at h
      · next hread =>
        cases h
        exact isSymbol_hostCommand (commandReader_reads hp _ _ _ hread)
      · nomatch h
      · nomatch h

theorem isSymbol_decodeTmr {w : Bytes} {i : Instr} (h : decodeTmr w = .ok i) : isSymbol i = false := by
  unfold decodeTmr at h
  split at h
  · repeat' split at h
    all_goals cases h
    all_goals rfl
  · split at h
    · cases h; rfl
    · nomatch h
  · nomatch h

/-- An agent's move is no symbol of the line: symbols are read from the receive buffer only (10_state.md R51). -/
theorem isSymbol_decodeMove {m : Move} {i : Instr} (h : decodeMove m = .ok i) : isSymbol i = false := by
  cases m with
  | cmd w => exact isSymbol_decodeCmd h
  | tmr w => exact isSymbol_decodeTmr h
  | _ => cases h; rfl

/-! ### The invariant of FC -/

theorem KeepsLine.fcInv {s t : State} (h : KeepsLine s t) (hs : FcInv s) : FcInv t := by
  unfold FcInv
  rw [h.rxbuf, h.rxtmr]
  exact hs

/-- Between steps no symbol stands at the decode position (40_frame_decode.md R122). -/
theorem FcInv.no_symbol {s : State} (h : FcInv s) (i : Instr) : decodeLine s.fc.rxbuf ≠ .ok i := fun hi =>
  (decodeLine_isOk_iff _).mp ⟨i, hi⟩ ((tryParse_incomplete_iff _).mpr h.1)

/-- The receive timer, set after the loop has stopped, is armed exactly on a buffer that is not empty. -/
theorem fcInv_lineTimer {s : State} (h : tryParse s.fc.rxbuf = .incomplete) : FcInv (lineTimer s) :=
  ⟨(tryParse_incomplete_iff _).mp h, by simp⟩

theorem handleOutcome_rxbuf (c : Config) (s : State) :
    (handleOutcome c (tryParse s.fc.rxbuf) s).fc.rxbuf = s.fc.rxbuf.drop (lineLength s.fc.rxbuf) := by
  rw [(procFrame_handleOutcome c _ s).rxbuf, lineLength_eq]
  rfl

/-- The receive loop with fuel for every byte of the buffer stops at an incomplete one: each symbol takes at least one byte
(40_frame_decode.md R111). -/
theorem receiveLoop_incomplete (c : Config) {fuel : Nat} {s : State} (h : s.fc.rxbuf.length ≤ fuel) :
    tryParse (receiveLoop c fuel s).fc.rxbuf = .incomplete := by
  induction fuel generalizing s with
  | zero =>
    have hnil : s.fc.rxbuf = [] := List.length_eq_zero_iff.mp (Nat.le_zero.mp h)
    rw [receiveLoop, hnil]
    rfl
  | succ fuel ih =>
    unfold receiveLoop
    split
    · next hstop => exact hstop
    · next hgo =>
      have hlen := lineLength_bounds hgo
      refine ih ?_
      rw [handleOutcome_rxbuf, List.length_drop]
      omega

theorem fcInv_receiveByte (c : Config) (b : Byte) (s : State) : FcInv (receiveByte c b s) :=
  fcInv_lineTimer (receiveLoop_incomplete c (by simp))

/-- Every instruction that is no symbol keeps the receive buffer waiting and its timer with it. -/
theorem fcInv_exec {i : Instr} {s : State} (hi : isSymbol i = false) (hs : FcInv s) : Leaves FcInv (exec i s) := by
  have hempty {u : State} (hbuf : u.fc.rxbuf = []) (htmr : u.fc.rxtmr = false) : FcInv u := ⟨.inl hbuf, by simp [hbuf, htmr]⟩
  cases i with
  | rxByte b => exact leaves_next (fcInv_receiveByte ..)
  | rxTimeout => exact leaves_ite (hempty rfl rfl)
  | sysReset => exact leaves_next (hempty rfl rfl)
  | txEmit => exact leaves_txEmit fun _ _ _ => hs
  | seSetkey key =>
    refine leaves_next ?_
    rcases setKey_cases key s with ⟨e, he⟩ | ⟨-, -, he⟩
    · exact he ▸ hs
    · exact he ▸ hs
  | ack => nomatch hi
  | nak => nomatch hi
  | can => nomatch hi
  | dataBadlen _ _ => nomatch hi
  | dataCsfail _ _ => nomatch hi
  | dataReq _ _ => nomatch hi
  | dataRes _ _ => nomatch hi
  | dataOther _ _ _ => nomatch hi
  | skip _ => nomatch hi
  | _ => exact (keepsLine_exec s rfl).mono fun _ hk => hk.fcInv hs

/-- Settles O49: between steps no symbol stands in the buffer, so a step is an agent's move, and none of these is a symbol. -/
theorem stepKeepsFcInv : Obligations.StepKeepsFcInv := by
  intro s t hs h
  rcases step_cases h with ⟨i, u, hline, -⟩ | ⟨m, i, rest, hm, hi⟩ | ⟨p, rest, rfl⟩ | ⟨rest, rfl⟩ | rfl
  · exact absurd hline (hs.no_symbol i)
  · exact fcInv_exec (isSymbol_decodeMove hm) (s := setSched rest s) hs t hi
  · exact hs
  · exact hs
  · exact hs

/-! ### While no key is loaded: every procedure does to the state without its keys what it does to the state

`keyless` empties the three key registers. A procedure that neither reads nor writes them commutes with it; the ones that read
them do so only after they have found `KEYVALID` set (42_cipher_core.md R180 to R183, 43_nonce_and_security_ops.md R210, R212). -/

@[simp] theorem keyless_fc (s : State) : (keyless s).fc = s.fc := rfl
@[simp] theorem keyless_ownid (s : State) : (keyless s).se.ownid = s.se.ownid := rfl
@[simp] theorem keyless_keyvalid (s : State) : (keyless s).se.keyvalid = s.se.keyvalid := rfl
@[simp] theorem keyless_nt (s : State) : (keyless s).se.nt = s.se.nt := rfl
@[simp] theorem keyless_tm (s : State) : (keyless s).tm = s.tm := rfl

/-- A test that does not look at the keys takes the same branch. -/
theorem ite_keyless {p : Prop} [Decidable p] {t u t' u' : State} (ht : t' = keyless t)
    (hu : u' = keyless u) : (if p then t' else u') = keyless (if p then t else u) := by
  by_cases hp : p
  · simp only [if_pos hp, ht]
  · simp only [if_neg hp, hu]

theorem finalize_keyless (o : TxnOutcome) (s : State) : finalize o (keyless s) = keyless (finalize o s) := by
  cases hc : s.tm.cur with
  | none => rw [finalize_none hc, finalize_none (s := keyless s) hc]
  | some c => rw [finalize_eq hc, finalize_eq (s := keyless s) hc]; rfl

theorem fail_keyless (e : ErrCode) (s : State) : fail e (keyless s) = keyless (fail e s) := by
  cases hc : s.tm.cur with
  | none => rw [fail_none hc, fail_none (s := keyless s) hc]
  | some c =>
    rw [fail_eq hc, fail_eq (s := keyless s) hc, failedWith, failedWith]
    split <;> rfl

theorem enterHandshake_keyless (s : State) : enterHandshake (keyless s) = keyless (enterHandshake s) := by
  cases hc : s.tm.cur with
  | none => simp only [enterHandshake, keyless_tm, hc]
  | some c =>
    cases hh : c.hsMsg with
    | none => simp only [enterHandshake, keyless_tm, hc, hh]
    | some h =>
      simp only [enterHandshake, keyless_tm, hc, hh]
      cases serialize h.type h.funcId h.payload with
      | ok f => rfl
      | error e => exact finalize_keyless _ (setSt .handshake s)

/-- What `Materialize` answers while no key is loaded: a plain payload, or an error (44_transaction_fsm.md R258). -/
def unkeyedPayload (t : Txn) : Except ErrCode Bytes :=
  if t.secure = false then .ok t.msg.payload
  else match t.node with
    | none => .error .precondition
    | some _ => .error .noKey

theorem materialize_unkeyed (c : Config) (t : Txn) {s : State} (hk : s.se.keyvalid = false) :
    materialize c t s = (s, unkeyedPayload t) := by
  unfold unkeyedPayload
  split
  · next hs => exact materialize_plain c hs
  · next hs =>
    have hsec : t.secure = true := by simpa using hs
    split
    · next hn => exact materialize_noNode c hsec hn
    · next n hn => exact materialize_sealError c hsec hn (sealChecks_noKey hk)

theorem buildError_keyless (e : ErrCode) (t : Txn) (s : State) :
    buildError e t (keyless s) = keyless (buildError e t s) := by
  unfold buildError
  split
  · exact fail_keyless _ s
  · exact finalize_keyless _ s

theorem sendBuilt_keyless (t : Txn) (p : Bytes) (s : State) : sendBuilt t p (keyless s) = keyless (sendBuilt t p s) := by
  unfold sendBuilt
  split
  · rfl
  · exact buildError_keyless _ t s

theorem enterExecute_keyless (c : Config) {s : State} (hk : s.se.keyvalid = false) :
    enterExecute c (keyless s) = keyless (enterExecute c s) := by
  cases hc : s.tm.cur with
  | none => simp only [enterExecute, keyless_tm, hc]
  | some t =>
    cases hf : s.tm.txframe with
    | some f => rw [enterExecute_latched c hc hf, enterExecute_latched c (s := keyless s) hc hf]; rfl
    | none =>
      have hm := materialize_unkeyed c t (s := setSt .execute s) hk
      have hm' := materialize_unkeyed c t (s := setSt .execute (keyless s)) hk
      simp only [enterExecute, keyless_tm, hc, hf, hm, hm']
      cases unkeyedPayload t with
      | ok p => exact sendBuilt_keyless t p (setSt .execute s)
      | error e => exact buildError_keyless e t (setSt .execute s)

theorem storeReplyNonce_keyless (c : Config) (r : Option Message) (s : State) :
    storeReplyNonce c r (keyless s) = keyless (storeReplyNonce c r s) := by
  simp only [storeReplyNonce, keyless_tm, keyless_ownid]
  split <;> rfl

theorem executeSuccess_keyless (r : Option Message) (s : State) :
    executeSuccess r (keyless s) = keyless (executeSuccess r s) := by
  simp only [executeSuccess, keyless_tm]
  split
  · rfl
  · split
    · rfl
    · exact finalize_keyless _ s

theorem handshakeSuccess_keyless (c : Config) (r : Option Message) {s : State} (hk : s.se.keyvalid = false) :
    handshakeSuccess c r (keyless s) = keyless (handshakeSuccess c r s) := by
  have hstored : (storeReplyNonce c r (latchReply r s)).se.keyvalid = false :=
    (procFrame_storeReplyNonce c r (latchReply r s)).keyvalid.trans hk
  have hstore := storeReplyNonce_keyless c r (latchReply r s)
  calc handshakeSuccess c r (keyless s)
      = enterExecute c (storeReplyNonce c r (keyless (latchReply r s))) := rfl
    _ = enterExecute c (keyless (storeReplyNonce c r (latchReply r s))) := by rw [hstore]
    _ = keyless (handshakeSuccess c r s) := enterExecute_keyless c hstored

theorem primitiveSuccess_keyless (c : Config) (r : Option Message) {s : State} (hk : s.se.keyvalid = false) :
    primitiveSuccess c r (keyless s) = keyless (primitiveSuccess c r s) := by
  simp only [primitiveSuccess, keyless_tm]
  split
  · exact handshakeSuccess_keyless c r (s := endPrimitive s) hk
  · exact executeSuccess_keyless r (endPrimitive s)
  · rfl
  · rfl
  · rfl

theorem linkAck_keyless (c : Config) {s : State} (hk : s.se.keyvalid = false) :
    linkAck c (keyless s) = keyless (linkAck c s) := by
  unfold linkAck
  refine ite_keyless (p := s.tm.ph = .waitAck) ?_ rfl
  simp only [keyless_tm]
  split
  · exact primitiveSuccess_keyless c none hk
  · rfl

theorem linkNak_keyless (s : State) : linkNak (keyless s) = keyless (linkNak s) :=
  ite_keyless (p := s.tm.ph = .waitAck) (fail_keyless _ s) rfl

theorem linkCan_keyless (s : State) : linkCan (keyless s) = keyless (linkCan s) :=
  ite_keyless (p := s.tm.ph = .waitAck) (fail_keyless _ s) rfl

theorem msgInReply_keyless (c : Config) (m : Message) {s : State} (hk : s.se.keyvalid = false) :
    msgInReply c m (keyless s) = keyless (msgInReply c m s) := by
  simp only [msgInReply, keyless_tm]
  split
  · exact primitiveSuccess_keyless c _ hk
  · rfl
  · exact fail_keyless _ s
  · rfl

theorem msgInUpdate_keyless (c : Config) (m : Message) (s : State) :
    msgInUpdate c m (keyless s) = keyless (msgInUpdate c m s) := by
  simp only [msgInUpdate, keyless_tm]
  split
  · rfl
  · split
    · exact finalize_keyless _ s
    · rfl

theorem msg_keyless (c : Config) (m : Message) {s : State} (hk : s.se.keyvalid = false) :
    msg c m (keyless s) = keyless (msg c m s) := by
  simp only [msg, keyless_tm]
  split
  · exact ite_keyless (msgInReply_keyless c m hk) rfl
  · exact ite_keyless (msgInReply_keyless c m hk) rfl
  · exact msgInUpdate_keyless c m s
  · rfl
  · rfl

theorem handleOutcome_keyless (c : Config) (o : ParseOutcome) {s : State} (hk : s.se.keyvalid = false) :
    handleOutcome c o (keyless s) = keyless (handleOutcome c o s) := by
  match o with
  | .incomplete => rfl
  | .skip n => rfl
  | .frame .ack n => exact linkAck_keyless c (s := consume n s) hk
  | .frame .nak n => exact linkNak_keyless (consume n s)
  | .frame .can n => exact linkCan_keyless (consume n s)
  | .frame (.data d) n =>
    simp only [handleOutcome, dispatchData]
    split
    · exact msg_keyless c _ (s := acceptFrame n s) hk
    · rfl
  | .invalid .checksum n => rfl
  | .invalid .length n => rfl

theorem receiveLoop_keyless (c : Config) (fuel : Nat) {s : State} (hk : s.se.keyvalid = false) :
    receiveLoop c fuel (keyless s) = keyless (receiveLoop c fuel s) := by
  induction fuel generalizing s with
  | zero => rfl
  | succ fuel ih =>
    have hnext := handleOutcome_keyless c (tryParse s.fc.rxbuf) hk
    have hloop := ih ((keeps_handleOutcome c (tryParse s.fc.rxbuf) s).keyvalid.trans hk)
    exact ite_keyless (p := tryParse s.fc.rxbuf = .incomplete) rfl ((congrArg (receiveLoop c fuel) hnext).trans hloop)

theorem receiveByte_keyless (c : Config) (b : Byte) {s : State} (hk : s.se.keyvalid = false) :
    receiveByte c b (keyless s) = keyless (receiveByte c b s) :=
  congrArg lineTimer (receiveLoop_keyless c _ (s := receive b s) hk)

/-! ### While no key is loaded: the commands -/

theorem crypt_unkeyed (data sn rn : Bytes) {s : State} (hk : s.se.keyvalid = false) :
    crypt data sn rn s = raise .noKey s := if_pos hk

theorem computeMac_unkeyed (sn rn : Bytes) (i : Byte) (a b : NodeId) (ct : Bytes) {s : State} (hk : s.se.keyvalid = false) :
    computeMac sn rn i a b ct s = raise .noKey s := by
  simp only [computeMac, macError, hk, if_true]

theorem verifyMac_unkeyed (sn rn : Bytes) (i : Byte) (a b : NodeId) (ct mac : Bytes) {s : State}
    (hk : s.se.keyvalid = false) : verifyMac sn rn i a b ct mac s = raise .noKey s := by
  simp only [verifyMac, macError, hk, if_true]

theorem sealCommand_unkeyed (c : Config) (r : NodeId) (i : Byte) (p : Bytes) (n : Option Byte) {s : State}
    (hk : s.se.keyvalid = false) : sealCommand c r i p n s = raise .noKey s := by
  simp only [sealCommand, sealMessage_error c (sealChecks_noKey hk)]

theorem openMessage_unkeyed (sender : NodeId) (i : Byte) (sn ct : Bytes) (id : Byte) (mac : Bytes) {s : State}
    (hk : s.se.keyvalid = false) : openMessage sender i sn ct id mac s = raise .noKey s := by
  simp only [openMessage, openChecks, hk, if_true]

theorem generateNonce_keyless (c : Config) (n : NodeId) (s : State) :
    generateNonce c n (keyless s) = keyless (generateNonce c n s) := by
  simp only [generateNonce, keyless_ownid]
  split
  · rfl
  · next own _ => exact ite_keyless (p := (usedIds own s.se.nt).length = 256) rfl rfl

theorem keepNonce_keyless (i : NodeId) (n : Bytes) (r : NodeId) (free : Bool) (s : State) :
    keepNonce i n r free (keyless s) = keyless (keepNonce i n r free s) := by
  unfold keepNonce
  split <;> rfl

theorem findFree_keyless (i : NodeId) (s : State) : findFree i (keyless s) = keyless (findFree i s) := by
  simp only [findFree, keyless_nt]
  split <;> rfl

theorem releaseNonce_keyless (k : NonceKey) (s : State) : releaseNonce k (keyless s) = keyless (releaseNonce k s) := by
  simp only [releaseNonce, keyless_nt]
  split <;> rfl

theorem takeNonce_keyless (k : NonceKey) (s : State) : takeNonce k (keyless s) = keyless (takeNonce k s) := by
  simp only [takeNonce, keyless_nt]
  split <;> rfl

theorem addTxn_keyless (t : TxnSpec) (s : State) : addTxn t (keyless s) = keyless (addTxn t s) := by
  have herr : addError t (keyless s) = addError t s := rfl
  simp only [addTxn, herr]
  split <;> rfl

theorem dispatchTxn_keyless (c : Config) (t : Txn) {s : State} (hk : s.se.keyvalid = false) :
    dispatchTxn c t (keyless s) = keyless (dispatchTxn c t s) :=
  ite_keyless (p := needHS c t s.se.nt = true) (enterHandshake_keyless (makeCurrent t s))
    (enterExecute_keyless c (s := makeCurrent t s) hk)

theorem retryAttempt_keyless (c : Config) {s : State} (hk : s.se.keyvalid = false) :
    retryAttempt c (keyless s) = keyless (retryAttempt c s) :=
  ite_keyless (p := s.tm.hsf = true) (enterHandshake_keyless (disarm s))
    (enterExecute_keyless c (s := disarm s) hk)

theorem reportAll_keyless (o : TxnOutcome) (ts : List Txn) (s : State) :
    reportAll o ts (keyless s) = keyless (reportAll o ts s) := by
  rw [reportAll_eq, reportAll_eq]
  rfl

theorem purge_keyless (p : Txn → Bool) (o : TxnOutcome) (s : State) : purge p o (keyless s) = keyless (purge p o s) := by
  have hqueue : purgeQueue p o (keyless s) = keyless (purgeQueue p o s) :=
    reportAll_keyless o _ (setQ (s.tm.q.filter fun t => !p t) s)
  have hcur : curMatches p (keyless s) = curMatches p s := rfl
  simp only [purge, hqueue, hcur]
  split
  · exact finalize_keyless o _
  · rfl

theorem sleepQueue_keyless (c : Config) (n : NodeId) (s : State) :
    sleepQueue c n (keyless s) = keyless (sleepQueue c n s) :=
  reportAll_keyless _ _ (choose (setQ ((s.tm.q.filter fun t => !droppedPing n t).map (retagQueued n)) s))

theorem sleepCurrent_keyless (n : NodeId) (s : State) : sleepCurrent n (keyless s) = keyless (sleepCurrent n s) := by
  simp only [sleepCurrent, keyless_tm]
  split
  · rfl
  · split
    · split
      · exact finalize_keyless _ s
      · rfl
    · rfl

/-! ### While no key is loaded: every instruction -/

/-- The two outcomes are the same, and so are their next states but for the contents of the key registers. -/
def Agree (r r' : Result) : Prop := mapNext keyless r = mapNext keyless r'

theorem agree_next {t u : State} (h : u = keyless t) : Agree (.next u) (.next t) := by
  rw [h]
  rfl

theorem agree_noKey {s t u : State} (hu : u = raise .noKey (keyless s)) (ht : t = raise .noKey s) :
    Agree (.next u) (.next t) :=
  agree_next (by rw [hu, ht]; rfl)

theorem agree_ite {p : Prop} [Decidable p] {t u : State} {f : Fault} (h : u = keyless t) :
    Agree (if p then .next u else .fault f) (if p then .next t else .fault f) := by
  split
  · exact agree_next h
  · rfl

theorem Agree.next {r r' : Result} (h : Agree r r') {t : State} (hr : r = .next t) :
    ∃ t', r' = .next t' ∧ keyless t = keyless t' := by
  subst hr
  cases r' with
  | next t' => exact ⟨t', rfl, Host.Outcome.next.inj h⟩
  | fault f => nomatch h
  | refused x => nomatch h

theorem Agree.fault {r r' : Result} (h : Agree r r') {f : Fault} (hr : r = .fault f) : r' = .fault f := by
  subst hr
  cases r' with
  | next t' => nomatch h
  | fault f' => exact congrArg _ (Host.Outcome.fault.inj h).symm
  | refused x => nomatch h

theorem Agree.refused {r r' : Result} (h : Agree r r') {x : Refusal} (hr : r = .refused x) : r' = .refused x := by
  subst hr
  cases r' with
  | next t' => nomatch h
  | fault f => nomatch h
  | refused x' => exact congrArg _ (Host.Outcome.refused.inj h).symm

theorem encodeReply_keyless (r : Except ErrCode Bytes) (s : State) : encodeReply r (keyless s) = keyless (encodeReply r s) := by
  cases r <;> rfl

theorem agree_txEmit (s : State) : Agree (execTxEmit (keyless s)) (execTxEmit s) := by
  simp only [execTxEmit, keyless_fc]
  split <;> rfl

theorem agree_tmDispatch {s : State} (hk : s.se.keyvalid = false) :
    Agree (execTmDispatch (keyless s)) (execTmDispatch s) := by
  have hnext : nextTxn (keyless s) = nextTxn s := rfl
  simp only [execTmDispatch, keyless_tm, hnext]
  split
  · split
    · rfl
    · exact agree_next (dispatchTxn_keyless _ _ hk)
  · rfl

/-- `SE.SETKEY` reads none of the key registers: it overwrites all three, or none. -/
theorem agree_seSetkey (key : Bytes) (s : State) : Agree (.next (setKey key (keyless s))) (.next (setKey key s)) := by
  unfold setKey
  split
  · rfl
  · cases hv : s.se.keyvalid with
    | false => simp only [keyless_keyvalid, hv, Bool.false_eq_true, if_false]; rfl
    | true => simp only [keyless_keyvalid, hv, if_true]; rfl

/-- `SYS.RESET` overwrites every register. -/
theorem agree_sysReset (s : State) : Agree (execSysReset (keyless s)) (execSysReset s) := by
  have hreport := reportAll_keyless (.failure .driverDestroyed none) (unsettled s) s
  have hreset : execSysReset (keyless s) = .next (answer .done (resetRegs
      (keyless (reportAll (.failure .driverDestroyed none) (unsettled s) s)))) :=
    congrArg (fun u => Host.Outcome.next (answer .done (resetRegs u))) hreport
  rw [hreset]
  rfl

/-- While no key is loaded, an instruction does to the state without its keys what it does to the state. -/
theorem exec_keyless (i : Instr) {s : State} (hk : s.se.keyvalid = false) : Agree (exec i (keyless s)) (exec i s) := by
  have hk' : (keyless s).se.keyvalid = false := hk
  cases i with
  | ack => exact agree_next (handleOutcome_keyless Config.host (.frame .ack 1) hk)
  | nak => exact agree_next (handleOutcome_keyless Config.host (.frame .nak 1) hk)
  | can => exact agree_next (handleOutcome_keyless Config.host (.frame .can 1) hk)
  | dataReq funcId payload => exact agree_next (msg_keyless _ _ (s := acceptFrame (frameLength payload) s) hk)
  | dataRes funcId payload => exact agree_next (msg_keyless _ _ (s := acceptFrame (frameLength payload) s) hk)
  | dataEncode type funcId payload => exact agree_next (encodeReply_keyless _ s)
  | rxByte b => exact agree_next (receiveByte_keyless _ b hk)
  | txEmit => exact agree_txEmit s
  | tmDispatch => exact agree_tmDispatch hk
  | tmTimeoutAck => exact agree_ite (fail_keyless _ s)
  | tmTimeoutResp => exact agree_ite (fail_keyless _ s)
  | tmTimeoutUpd => exact agree_ite (fail_keyless _ s)
  | tmTimeoutRetry => exact agree_ite (retryAttempt_keyless _ hk)
  | rxTimeout => exact agree_ite (p := s.fc.rxtmr = true) rfl
  | ntExpire issuer id => exact agree_ite (p := (ntFind ⟨issuer, id⟩ s.se.nt).isSome = true) rfl
  | sysReset => exact agree_sysReset s
  | sysDestroy => exact agree_next (congrArg (fun u => answer .done (destroy u)) (purge_keyless _ _ s))
  | seSetkey key => exact agree_seSetkey key s
  | seEncrypt p sn rn => exact agree_noKey (crypt_unkeyed p sn rn hk') (crypt_unkeyed p sn rn hk)
  | seDecrypt c sn rn => exact agree_noKey (crypt_unkeyed c sn rn hk') (crypt_unkeyed c sn rn hk)
  | seMac sn rn cmd a b ct =>
    exact agree_noKey (computeMac_unkeyed sn rn cmd a b ct hk') (computeMac_unkeyed sn rn cmd a b ct hk)
  | seVerify sn rn cmd a b ct mac =>
    exact agree_noKey (verifyMac_unkeyed sn rn cmd a b ct mac hk') (verifyMac_unkeyed sn rn cmd a b ct mac hk)
  | seSeal r cmd p n => exact agree_noKey (sealCommand_unkeyed _ r cmd p n hk') (sealCommand_unkeyed _ r cmd p n hk)
  | seOpen sender cmd sn ct id mac =>
    exact agree_noKey (openMessage_unkeyed sender cmd sn ct id mac hk') (openMessage_unkeyed sender cmd sn ct id mac hk)
  | ntGenerate n => exact agree_next (generateNonce_keyless _ n s)
  | ntStore issuer n r free => exact agree_next (keepNonce_keyless issuer n r free s)
  | ntFindfree issuer => exact agree_next (findFree_keyless issuer s)
  | ntRelease issuer id => exact agree_next (releaseNonce_keyless _ s)
  | ntTake issuer id => exact agree_next (takeNonce_keyless _ s)
  | tmAdd t => exact agree_next (addTxn_keyless t s)
  | tmReject p reason =>
    exact agree_next (congrArg (answer (.count (purgeCount (predHolds Config.host p) s))) (purge_keyless _ _ s))
  | tmNodeAsleep n =>
    have hqueue := sleepQueue_keyless Config.host n s
    have hcur := sleepCurrent_keyless n (sleepQueue Config.host n s)
    exact agree_next (congrArg (answer .done) ((congrArg (sleepCurrent n) hqueue).trans hcur))
  | _ => exact agree_next rfl

/-- Settles O52: both outcomes are that of the one state without keys. -/
theorem keysUnreadBeforeLoad : Obligations.KeysUnreadBeforeLoad := by
  intro i s s' hk heq
  have hk' : s'.se.keyvalid = false := (congrArg (fun u => u.se.keyvalid) heq).symm.trans hk
  have hleft : Agree (exec i (keyless s)) (exec i s) := exec_keyless i hk
  have hright : Agree (exec i (keyless s)) (exec i s') := heq ▸ exec_keyless i hk'
  have hagree : Agree (exec i s) (exec i s') := hleft.symm.trans hright
  exact ⟨fun _ => hagree.next, fun _ => hagree.fault, fun _ => hagree.refused⟩

end Sys2Proof.Machine

/-! SUPPORT. The decoder reads back what the encoder writes (spec/30_encoding.md R80 to R94): the slices of a Data frame, the
symbols of the line, the operand bytes of a command. -/

namespace Sys2Proof.Machine

/-! ### Slices of a frame -/

/-- The slice of what stands between two other sequences. -/
theorem slice_middle (pre mid post : Bytes) {i j : Nat} (hi : i = pre.length) (hj : j + 1 = pre.length + mid.length) :
    slice (pre ++ (mid ++ post)) i j = mid := by
  have hlen : j + 1 - i = mid.length := by omega
  rw [slice, hlen, hi, List.drop_left, List.take_left]

/-- The bytes a length byte declares (30_encoding.md R83). -/
theorem slice_body (len : Byte) {body : Bytes} (h : body.length = len.toNat) :
    slice (sofByte :: len :: body) 2 (len.toNat + 1) = body := by
  simpa using slice_middle [sofByte, len] body [] rfl (show len.toNat + 1 + 1 = 2 + body.length by omega)

/-- The bytes a checksum covers: the length byte and all it declares but the last (40_frame_decode.md R110). -/
theorem slice_covered {len : Byte} (body : Bytes) (h : 1 ≤ len.toNat) :
    slice (sofByte :: len :: body) 1 len.toNat = len :: body.take (len.toNat - 1) := by
  obtain ⟨n, hn⟩ : ∃ n, len.toNat = n + 1 := ⟨len.toNat - 1, by omega⟩
  rw [slice, hn]
  rfl

/-- The last byte a length byte declares. -/
theorem getD_last {len : Byte} (body : Bytes) (h : 1 ≤ len.toNat) :
    (sofByte :: len :: body).getD (len.toNat + 1) 0 = body.getD (len.toNat - 1) 0 := by
  obtain ⟨n, hn⟩ : ∃ n, len.toNat = n + 1 := ⟨len.toNat - 1, by omega⟩
  rw [hn]
  rfl

/-! ### The symbols of the line -/

/-- A Data frame whose length byte counts its payload and whose last byte is the checksum, at the front of a buffer
(40_frame_decode.md R110). -/
theorem tryParse_dataFrame {len t f sum : Byte} {p : Bytes} (rest : Bytes) (hlen : len.toNat = p.length + 3)
    (hsum : 0xFF ^^^ xorfold (len :: t :: f :: p) = sum) :
    tryParse (sofByte :: len :: t :: f :: (p ++ sum :: rest)) =
      .frame (.data { type := t, funcId := f, payload := p, checksum := sum }) (p.length + 5) := by
  have hwhole : ¬ (t :: f :: (p ++ sum :: rest)).length < len.toNat := by simp [hlen]
  have hcovered : (t :: f :: (p ++ sum :: rest)).take (len.toNat - 1) = t :: f :: p := by simp [hlen]
  have hlast : (t :: f :: (p ++ sum :: rest)).getD (len.toNat - 1) 0 = sum := by simp [hlen]
  have hpayload : slice (sofByte :: len :: t :: f :: (p ++ sum :: rest)) 4 len.toNat = p :=
    slice_middle [sofByte, len, t, f] p (sum :: rest) rfl (by simp [hlen]; omega)
  rw [tryParse_sof, if_neg hwhole, parseData, if_neg (by omega), slice_covered _ (by omega), hcovered,
    getD_last _ (by omega), hlast, hsum, if_neg (not_not.mpr rfl), hpayload, hlen]
  rfl

/-- `TryParse` reads a serialized Data frame at the front of a buffer (30_encoding.md R82, 41_frame_encode.md R141). -/
theorem tryParse_frameBytes (t f : Byte) {p : Bytes} (rest : Bytes) (hp : p.length ≤ Config.maxPayload) :
    tryParse (frameBytes t f p ++ rest) =
      .frame (.data { type := t, funcId := f, payload := p, checksum := checksum t f p }) (p.length + 5) := by
  have hmax : p.length ≤ 252 := hp
  have hbytes : frameBytes t f p ++ rest =
      sofByte :: toByte (p.length + 3) :: t :: f :: (p ++ checksum t f p :: rest) := by simp [frameBytes]
  rw [hbytes]
  exact tryParse_dataFrame rest (toByte_toNat (by omega)) (by simp [checksum, BitVec.xor_assoc])

theorem decodeLine_frameBytes (t f : Byte) {p : Bytes} (hp : fitsFrame p = true) :
    decodeLine (frameBytes t f p) = .ok (dataInstr { type := t, funcId := f, payload := p, checksum := checksum t f p }) := by
  have hparse := tryParse_frameBytes t f [] (of_decide_eq_true hp)
  rw [List.append_nil] at hparse
  rw [decodeLine, hparse]

/-- A declared length below 3 (30_encoding.md R83, 40_frame_decode.md R119). -/
theorem decodeLine_badlen {len : Byte} {body : Bytes} (hlen : len.toNat < 3) (hbody : body.length = len.toNat) :
    decodeLine (sofByte :: len :: body) = .ok (.dataBadlen len body) := by
  have hparse : tryParse (sofByte :: len :: body) = .invalid .length (len.toNat + 2) := by
    rw [tryParse_sof, if_neg (by omega), parseData, if_pos hlen]
  rw [decodeLine, hparse]
  exact congrArg (fun b => Except.ok (Instr.dataBadlen len b)) (slice_body len hbody)

/-- A whole frame whose last byte is not the checksum of the others (40_frame_decode.md R118). -/
theorem decodeLine_csfail {len : Byte} {body : Bytes} (hlen : 3 ≤ len.toNat) (hbody : body.length = len.toNat)
    (hsum : 0xFF ^^^ len ^^^ xorfold (body.take (len.toNat - 1)) ≠ body.getD (len.toNat - 1) 0) :
    decodeLine (sofByte :: len :: body) = .ok (.dataCsfail len body) := by
  have hparse : tryParse (sofByte :: len :: body) = .invalid .checksum (len.toNat + 2) := by
    rw [tryParse_sof, if_neg (by omega), parseData, if_neg (by omega), slice_covered body (by omega),
      getD_last body (by omega), xorfold_cons, ← BitVec.xor_assoc, if_pos hsum]
  rw [decodeLine, hparse]
  exact congrArg (fun b => Except.ok (Instr.dataCsfail len b)) (slice_body len hbody)

/-- A byte that is none of the four markers (30_encoding.md R89). -/
theorem decodeLine_skip {b : Byte} (h : isSkipByte b = true) : decodeLine [b] = .ok (.skip b) := by
  simp only [isSkipByte, Bool.and_eq_true, bne_iff_ne] at h
  obtain ⟨⟨⟨hack, hnak⟩, hcan⟩, hsof⟩ := h
  have hparse : tryParse [b] = .skip 1 := by
    simp only [tryParse, if_neg hack, if_neg hnak, if_neg hcan, if_pos hsof]
  rw [decodeLine, hparse]
  rfl

/-- A type byte that is neither of the two known ones (30_encoding.md R90). -/
theorem dataInstr_reserved {d : DataFrame} (h : isReservedType d.type = true) :
    dataInstr d = .dataOther d.type d.funcId d.payload := by
  simp only [isReservedType, Bool.and_eq_true, bne_iff_ne] at h
  obtain ⟨hreq, hres⟩ := h
  rw [dataInstr, if_neg hreq, if_neg hres]

/-! ### The operand bytes of a command -/

/-- Reading one operand, and then what it selects. -/
theorem readThen_of {α β : Type} {p : Reader α} {a : α} {w rest : Bytes} (h : p w = some (a, rest)) (k : α → Reader β) :
    readThen p k w = k a rest := by
  rw [readThen, h]

@[simp] theorem readDone_apply {α : Type} (a : α) (w : Bytes) : readDone a w = some (a, w) := rfl

section
variable {β : Type} (w : Bytes)

@[simp] theorem readThen_readByte (k : Byte → Reader β) (b : Byte) : readThen readByte k (b :: w) = k b w := rfl

@[simp] theorem readThen_readBytes (k : Bytes → Reader β) (s : Bytes) : readThen readBytes k (putBytes s ++ w) = k s w :=
  readThen_of (readBytes_put s w) k

@[simp] theorem readThen_readBool (k : Bool → Reader β) (b : Bool) : readThen readBool k (putBool b ++ w) = k b w :=
  readThen_of (readBool_put b w) k

@[simp] theorem readThen_readOption_byte (k : Option Byte → Reader β) (o : Option Byte) :
    readThen (readOption readByte) k (putOption (fun b => [b]) o ++ w) = k o w :=
  readThen_of (readOption_put readByte_put o w) k

@[simp] theorem readThen_readTxnSpec (k : TxnSpec → Reader β) (t : TxnSpec) :
    readThen readTxnSpec k (putTxnSpec t ++ w) = k t w :=
  readThen_of (readTxnSpec_put t w) k

@[simp] theorem readThen_readPred (k : TxnPred → Reader β) (p : TxnPred) : readThen readPred k (putPred p ++ w) = k p w :=
  readThen_of (readPred_put p w) k

@[simp] theorem readThen_readReason (k : ErrCode → Reader β) (e : ErrCode) : readThen readReason k (errByte e :: w) = k e w :=
  readThen_of (readReason_put e w) k

end

/-- A command decodes from its code and its operand bytes, when its reader reads them whatever bytes follow
(30_encoding.md R92). -/
theorem decode_command {code : Byte} {p : Reader Instr} {operands : Bytes} {i : Instr}
    (hcode : commandReader code = some p) (hread : ∀ w, p (operands ++ w) = some (i, w)) :
    decode (.port (.cmd (code :: operands))) = .ok i :=
  decodeCmd_of hcode (by simpa using hread [])

/-! ### Every instruction -/

/-- Settles O60: by cases on the instruction; a symbol goes through `decodeLine`, a command with operands of no fixed length
through its reader, and every other word evaluates. -/
theorem decodeEncode : Obligations.DecodeEncode := by
  intro i hwf
  cases i with
  | dataBadlen len body =>
    simp only [Instr.wf, Bool.and_eq_true, decide_eq_true_eq] at hwf
    obtain ⟨hlen, hbody⟩ := hwf
    exact decodeLine_badlen hlen hbody
  | dataCsfail len body =>
    simp only [Instr.wf, Bool.and_eq_true, decide_eq_true_eq] at hwf
    obtain ⟨⟨hlen, hbody⟩, hsum⟩ := hwf
    exact decodeLine_csfail hlen hbody hsum
  | dataReq f p => exact decodeLine_frameBytes Config.typeReq f hwf
  | dataRes f p => exact decodeLine_frameBytes Config.typeRes f hwf
  | dataOther t f p =>
    simp only [Instr.wf, Bool.and_eq_true] at hwf
    obtain ⟨htype, hfits⟩ := hwf
    exact (decodeLine_frameBytes t f hfits).trans (congrArg Except.ok (dataInstr_reserved htype))
  | skip b => exact decodeLine_skip hwf
  | seSetkey key => exact decode_command rfl (by simp)
  | seEncrypt p sn rn => exact decode_command rfl (by simp)
  | seDecrypt c sn rn => exact decode_command rfl (by simp)
  | seMac sn rn cmd sender receiver ct => exact decode_command rfl (by simp)
  | seVerify sn rn cmd sender receiver ct mac => exact decode_command rfl (by simp)
  | seSeal receiver cmd p nonceId => exact decode_command rfl (by simp)
  | seOpen sender cmd sn ct nonceId mac => exact decode_command rfl (by simp)
  | ntStore issuer nonce receiver free => exact decode_command rfl (by simp)
  | tmAdd t => exact decode_command rfl (by simp)
  | tmReject p r => exact decode_command rfl (by simp)
  | _ => rfl

/-- Settles O59: every word but the last is the encoding of the instruction it stands for. -/
theorem knownWordsDecode : Obligations.KnownWordsDecode :=
  ⟨decodeEncode .ack rfl, decodeEncode .nak rfl, decodeEncode .can rfl,
    decodeEncode (.dataReq 0x13 [0x2A, 0x00]) rfl, decodeEncode (.dataRes 0x13 [0x01]) rfl,
    decodeEncode (.dataOther 0x02 0x15 []) rfl, decodeEncode (.dataCsfail 0x03 [0x00, 0x15, 0xE8]) rfl,
    decodeEncode (.skip 0xFF) rfl, decodeEncode (.sysSetid 0x01) rfl, decodeEncode (.ntTake 0x05 0x11) rfl,
    decodeEncode .tmTimeoutUpd rfl, decodeEncode (.ntExpire 0x05 0x11) rfl, rfl⟩

end Sys2Proof.Machine

/-! SUPPORT. The wire format (spec/40_frame_decode.md R110, R126): a frame that was serialized is read back, and bytes after
the first symbol change nothing. -/

namespace Sys2Proof.Machine

/-! ### The first symbol of a buffer -/

/-- Settles O32: the frame a payload that fits has is the one `TryParse` reads. -/
theorem parseSerialize : Obligations.ParseSerialize := fun type funcId _ rest hfits =>
  ⟨_, serialize_ok hfits, tryParse_frameBytes type funcId rest hfits⟩

/-- A slice that lies within a sequence does not see what follows it. -/
theorem slice_append {buf : Bytes} (more : Bytes) (i : Nat) {j : Nat} (h : j < buf.length) :
    slice (buf ++ more) i j = slice buf i j := by
  simp only [slice, ← List.drop_take, List.take_append_of_le_length (show j + 1 ≤ buf.length from h)]

/-- A whole Data frame is judged by its own bytes. -/
theorem parseData_append {buf : Bytes} (more : Bytes) {len : Nat} (h : len + 2 ≤ buf.length) :
    parseData (buf ++ more) len = parseData buf len := by
  unfold parseData
  split
  · rfl
  · next hlen =>
    rw [slice_append more 1 (by omega), slice_append more 4 (by omega), List.getD_append buf more 0 2 (by omega),
      List.getD_append buf more 0 3 (by omega), List.getD_append buf more 0 (len + 1) (by omega)]

/-- A byte that is no start marker is judged alone. -/
theorem tryParse_control_append {b : Byte} (rest more : Bytes) (h : b ≠ sofByte) :
    tryParse (b :: rest ++ more) = tryParse (b :: rest) := by
  simp only [tryParse, List.cons_append, if_pos h]

/-- Bytes after the first symbol change nothing (40_frame_decode.md R110). -/
theorem tryParse_append {buf : Bytes} (more : Bytes) (h : tryParse buf ≠ .incomplete) :
    tryParse (buf ++ more) = tryParse buf := by
  match buf with
  | [] => exact absurd rfl h
  | b :: rest =>
    by_cases hb : b = sofByte
    · subst hb
      match rest with
      | [] => exact absurd (by decide) h
      | len :: rest =>
        have hwhole : ¬ rest.length < len.toNat := fun hlt => h (by rw [tryParse_sof, if_pos hlt])
        have hwhole' : ¬ (rest ++ more).length < len.toNat := by rw [List.length_append]; omega
        simp only [List.cons_append, tryParse_sof, if_neg hwhole, if_neg hwhole']
        exact parseData_append (buf := sofByte :: len :: rest) more (by simp only [List.length_cons]; omega)
    · exact tryParse_control_append rest more hb

/-- Settles O35: the first symbol is judged by its own bytes, and its length is bounded by the buffer's. -/
theorem tryParseFirst : Obligations.TryParseFirst := fun _ more h => ⟨tryParse_append more h, lineLength_bounds h⟩

/-- The byte that completes a symbol is its last: no symbol but the one that all the bytes make up was waiting
(40_frame_decode.md R111, R122). -/
theorem lineLength_completed {buf : Bytes} {b : Byte} (hwait : tryParse buf = .incomplete)
    (hdone : tryParse (buf ++ [b]) ≠ .incomplete) : lineLength (buf ++ [b]) = (buf ++ [b]).length := by
  match buf with
  | [] =>
    have hb : b ≠ sofByte := fun hb => hdone (by subst hb; decide)
    exact (tryParse_control [] hb).2
  | x :: rest =>
    have hx : x = sofByte := by
      by_contra hx
      exact (tryParse_control rest hx).1 hwait
    subst hx
    match rest with
    | [] =>
      have hlen : ¬ 0 < b.toNat := fun hlt => hdone (by rw [List.cons_append, List.nil_append, tryParse_sof]; exact if_pos hlt)
      rw [List.cons_append, List.nil_append, lineLength_sof (len := b) (rest := []) (Nat.le_of_not_lt hlen)]
      simp only [List.length_cons, List.length_nil]
      omega
    | len :: rest =>
      have hshort : rest.length < len.toNat := by
        by_contra hlen
        rw [tryParse_sof, if_neg hlen] at hwait
        exact parseData_ne_incomplete _ _ hwait
      have hwhole : ¬ (rest ++ [b]).length < len.toNat := fun hlt =>
        hdone (by rw [List.cons_append, List.cons_append, tryParse_sof, if_pos hlt])
      simp only [List.cons_append, lineLength_sof (Nat.le_of_not_lt hwhole)]
      simp only [List.length_append, List.length_cons, List.length_nil] at hwhole ⊢
      omega

end Sys2Proof.Machine

/-! SUPPORT. What FC does with each symbol of the line and what it transmits (spec/40_frame_decode.md R111 to R127). -/

namespace Sys2Proof.Machine

/-! ### Symbols that TM is not told of -/

/-- Settles O29: SKIP is `consume 1`. -/
theorem skipConsumesOneByte : Obligations.SkipConsumesOneByte := fun _ _ => rfl

/-- Settles O30: both are `rejectFrame` of the bytes the length byte declares. -/
theorem badFramesAnsweredNak : Obligations.BadFramesAnsweredNak := fun _ _ _ => ⟨rfl, rfl⟩

/-- Settles O31: `acceptUnknown` of the bytes the payload's length says. -/
theorem dataOtherAcksAndLogs : Obligations.DataOtherAcksAndLogs := fun _ _ _ _ => rfl

/-- Settles O26: by the receive timer. -/
theorem rxTimeoutDropsFrame : Obligations.RxTimeoutDropsFrame := fun s =>
  ⟨fun harmed => by simp only [exec, execRxTimeout, harmed, if_true]; rfl,
    fun hoff => by simp only [exec, execRxTimeout, hoff, Bool.false_eq_true, if_false]⟩

/-! ### Link events -/

theorem exec_ack (s : State) : exec .ack s = .next (linkAck Config.host (consume 1 s)) := rfl

theorem exec_nak (s : State) : exec .nak s = .next (linkNak (consume 1 s)) := rfl

theorem exec_can (s : State) : exec .can s = .next (linkCan (consume 1 s)) := rfl

theorem linkAck_ignored (cfg : Config) {s : State} (h : s.tm.ph ≠ .waitAck) : linkAck cfg s = s := if_neg h

theorem linkAck_awaitsReply (cfg : Config) {s : State} (h : s.tm.ph = .waitAck) (he : activeExpect s.tm ≠ none) :
    linkAck cfg s = awaitReply s := by
  obtain ⟨p, hp⟩ := Option.ne_none_iff_exists'.mp he
  simp only [linkAck, h, if_true, hp]

theorem linkAck_ends (cfg : Config) {s : State} (h : s.tm.ph = .waitAck) (he : activeExpect s.tm = none) :
    linkAck cfg s = primitiveSuccess cfg none s := by
  simp only [linkAck, h, if_true, he]

theorem linkNak_ignored {s : State} (h : s.tm.ph ≠ .waitAck) : linkNak s = s := if_neg h

theorem linkCan_ignored {s : State} (h : s.tm.ph ≠ .waitAck) : linkCan s = s := if_neg h

theorem linkNak_fails {s : State} (h : s.tm.ph = .waitAck) : linkNak s = fail .linkNak s := if_pos h

theorem linkCan_fails {s : State} (h : s.tm.ph = .waitAck) : linkCan s = fail .linkCan s := if_pos h

/-- In `execute` the active message is the transaction's own (44_transaction_fsm.md R240). -/
theorem activeExpect_execute {r : TmRegs} {c : Txn} (hst : r.st = .execute) (hc : r.cur = some c) :
    activeExpect r = c.msg.expect := by
  simp only [activeExpect, active, hst, hc, Option.bind_some]

/-- In `handshake` the active message is the handshake message (44_transaction_fsm.md R240). -/
theorem activeExpect_handshake {r : TmRegs} {c : Txn} {h : Message} (hst : r.st = .handshake) (hc : r.cur = some c)
    (hh : c.hsMsg = some h) : activeExpect r = h.expect := by
  simp only [activeExpect, active, hst, hc, hh, Option.bind_some]

/-- `PrimitiveSuccess` in `execute`, in the words of the statements. -/
theorem primitiveSuccess_executed (cfg : Config) {s : State} {c : Txn} (hst : s.tm.st = .execute)
    (hc : s.tm.cur = some c) (r : Option Message) : primitiveSuccess cfg r s = executed r c s :=
  primitiveSuccess_execute cfg hst hc r

/-- What a handshake's success writes before `EnterExecute` (44_transaction_fsm.md R261, R262). -/
theorem storeReplyNonce_eq_handshaken {s : State} {c : Txn} (hc : s.tm.cur = some c) (r : Option Message) :
    storeReplyNonce Config.host r (latchReply r (endPrimitive s)) = handshaken r c s := by
  have hnode : (latchReply r (endPrimitive s)).tm.cur.bind (fun t => t.node) = c.node := by
    rw [latchReply_cur, endPrimitive_cur, hc, Option.bind_some]
  unfold storeReplyNonce
  split
  · next n i o hn hi ho =>
    rw [hnode] at hi
    rw [latchReply_se, endPrimitive_se] at ho
    rw [handshaken, hn, hi, ho]
    rfl
  · next hno =>
    unfold handshaken
    split
    · next n i o hn hi ho => exact (hno n i o hn (hnode.trans hi) ho).elim
    · rfl

theorem handshaken_cur {s : State} {c : Txn} (hc : s.tm.cur = some c) (r : Option Message) :
    (handshaken r c s).tm.cur = some c := by
  rw [← storeReplyNonce_eq_handshaken hc, (storeReplyNonce_frame ..).1, latchReply_cur, endPrimitive_cur, hc]

/-- A handshake that succeeds goes on to `EnterExecute` in the same step (44_transaction_fsm.md R262; log entry 20). -/
theorem primitiveSuccess_handshaken {s : State} {c : Txn} (hst : s.tm.st = .handshake) (hc : s.tm.cur = some c)
    (r : Option Message) :
    entersExecute c (handshaken r c s) (primitiveSuccess Config.host r s) := by
  rw [primitiveSuccess_handshake _ hst, handshakeSuccess, storeReplyNonce_eq_handshaken hc]
  exact enterExecute_spec (handshaken_cur hc r)

/-- Settles O36: by whether TM waits for the ACK, whether a reply is expected, and the state it waits in. -/
theorem ackEndsOrAwaitsReply : Obligations.AckEndsOrAwaitsReply := by
  refine fun s => ⟨fun hph => ?ignored, fun hph he => ?awaits, fun c hph hst hc he => ?execute,
    fun c h hph hst hc hh he => ?handshake⟩
  case ignored => rw [exec_ack, linkAck_ignored (s := consume 1 s) _ hph]; rfl
  case awaits => rw [exec_ack, linkAck_awaitsReply (s := consume 1 s) _ hph he]; rfl
  case execute =>
    have hnone : activeExpect s.tm = none := (activeExpect_execute hst hc).trans he
    rw [exec_ack, linkAck_ends (s := consume 1 s) _ hph hnone, primitiveSuccess_executed (s := consume 1 s) _ hst hc]
    rfl
  case handshake =>
    have hnone : activeExpect s.tm = none := (activeExpect_handshake hst hc hh).trans he
    refine ⟨_, exec_ack s, ?_⟩
    rw [linkAck_ends (s := consume 1 s) _ hph hnone]
    exact primitiveSuccess_handshaken (s := consume 1 s) hst hc none

/-- Settles O37: a NAK or a CAN that TM waits for is the retry policy with its own cause. -/
theorem nakCanFailTheAttempt : Obligations.NakCanFailTheAttempt := by
  refine fun s => ⟨fun hph => ?_, fun c hph hc => ?_⟩
  · rw [exec_nak, exec_can, linkNak_ignored (s := consume 1 s) hph, linkCan_ignored (s := consume 1 s) hph]
    exact ⟨rfl, rfl⟩
  · have hfail {e : ErrCode} (he : e ≠ .noNonce) :
        fail e (consume 1 s) = failedWith c (decide (s.tm.st = .handshake)) e (consume 1 s) := by
      rw [fail_eq (s := consume 1 s) hc, hsfOf_ne he, consume_tm]
    rw [exec_nak, exec_can, linkNak_fails (s := consume 1 s) hph, linkCan_fails (s := consume 1 s) hph,
      hfail (by decide), hfail (by decide)]
    exact ⟨rfl, rfl⟩

/-! ### Received Messages -/

/-- Both instructions queue the ACK and hand TM the Message (40_frame_decode.md R116, R117). -/
theorem exec_messageInstr (response : Bool) (funcId : Byte) (payload : Bytes) (s : State) :
    exec (messageInstr response funcId payload).1 s =
      .next (msg Config.host (messageInstr response funcId payload).2 (acknowledged payload s)) := by
  cases response <;> rfl

/-- TM reports a Message it does not take (44_transaction_fsm.md R260). -/
theorem msg_unsolicited (cfg : Config) (m : Message) {s : State}
    (h : s.tm.st = .idle ∨ s.tm.st = .retryWait ∨ ((s.tm.st = .handshake ∨ s.tm.st = .execute) ∧ s.tm.ph ≠ .waitReply)) :
    msg cfg m s = unsolicited m s := by
  unfold msg
  rcases h with hst | hst | ⟨hst | hst, hph⟩
  · simp only [hst]; rfl
  · simp only [hst]; rfl
  · simp only [hst, if_neg hph]; rfl
  · simp only [hst, if_neg hph]; rfl

/-- Settles O38: the ACK is queued, and TM, which takes no Message in these states, reports it. -/
theorem messageUnsolicited : Obligations.MessageUnsolicited := fun s response funcId payload h => by
  rw [exec_messageInstr, msg_unsolicited (s := acknowledged payload s) _ _ h]

/-! ### One received byte -/

/-- The receive loop stops at an incomplete buffer, whatever fuel is left. -/
theorem receiveLoop_stops (c : Config) (fuel : Nat) {s : State} (h : tryParse s.fc.rxbuf = .incomplete) :
    receiveLoop c fuel s = s := by
  cases fuel with
  | zero => rfl
  | succ fuel => exact if_pos h

/-- The symbol that one byte completes takes the whole buffer. -/
theorem handleOutcome_completed_rxbuf (c : Config) {s : State} {b : Byte} (hs : FcInv s)
    (h : tryParse (receive b s).fc.rxbuf ≠ .incomplete) :
    (handleOutcome c (tryParse (receive b s).fc.rxbuf) (receive b s)).fc.rxbuf = [] := by
  rw [handleOutcome_rxbuf, receive_rxbuf, lineLength_completed ((tryParse_incomplete_iff _).mpr hs.1) h, List.drop_length]

/-- Between steps one byte completes at most one symbol: the loop of `RX.BYTE` is one turn (40_frame_decode.md R111). -/
theorem receiveByte_eq (c : Config) (b : Byte) {s : State} (hs : FcInv s) :
    receiveByte c b s = lineTimer (handleOutcome c (tryParse (s.fc.rxbuf ++ [b])) (receive b s)) := by
  unfold receiveByte
  by_cases h : tryParse (receive b s).fc.rxbuf = .incomplete
  · rw [receiveLoop_stops c _ h, ← receive_rxbuf, h]
    rfl
  · have hempty := handleOutcome_completed_rxbuf c hs h
    rw [receiveLoop, if_neg h, receiveLoop_stops c _ (by rw [hempty]; rfl)]
    rfl

/-- The receive timer is off on an empty buffer (40_frame_decode.md R111). -/
theorem lineTimer_empty {s : State} (h : s.fc.rxbuf = []) : lineTimer s = { s with fc.rxtmr := false } := by
  simp only [lineTimer, h, List.isEmpty_nil, Bool.not_true]

theorem tryParse_of_decodeLine_error {buf : Bytes} {e : DecodeError} (h : decodeLine buf = .error e) :
    tryParse buf = .incomplete := by
  by_contra hp
  obtain ⟨i, hi⟩ := (decodeLine_isOk_iff buf).mpr hp
  rw [h] at hi
  nomatch hi

/-- Settles O24: by whether the byte completes a symbol. -/
theorem rxByteRunsSymbols : Obligations.RxByteRunsSymbols := by
  intro s b hs
  have hrun : exec (.rxByte b) s = .next (lineTimer (handleOutcome Config.host (tryParse (s.fc.rxbuf ++ [b])) (receive b s))) :=
    congrArg Host.Outcome.next (receiveByte_eq Config.host b hs)
  split
  · next e hline =>
    rw [hrun, tryParse_of_decodeLine_error hline]
    simp [handleOutcome, lineTimer, receive]
  · next i hline =>
    have hempty := handleOutcome_completed_rxbuf Config.host (b := b) hs ((decodeLine_isOk_iff _).mp ⟨i, hline⟩)
    exact ⟨_, exec_symbol hline (receive b s), hempty, hrun.trans (congrArg Host.Outcome.next (lineTimer_empty hempty))⟩

/-! ### What a symbol transmits -/

/-- From `s` to `t` nothing was queued for the line, or one frame, which TM has latched and whose acknowledgement it awaits in
`execute` (44_transaction_fsm.md R253). -/
def SendsLatched (s t : State) : Prop :=
  ∃ f, t.fc.txq = s.fc.txq ++ f ∧ (f = [] ∨ (t.tm.txframe = some f ∧ t.tm.st = .execute ∧ t.tm.ph = .waitAck))

theorem SendsLatched.of_txq {s t : State} (h : t.fc.txq = s.fc.txq) : SendsLatched s t :=
  ⟨[], h.trans (List.append_nil _).symm, .inl rfl⟩

theorem SendsLatched.of_fc {s t : State} (h : t.fc = s.fc) : SendsLatched s t := .of_txq (congrArg FcRegs.txq h)

/-- `SendsLatched` reads `TXQ` only of the state before. -/
theorem SendsLatched.congr {s u t : State} (h : SendsLatched u t) (hu : u.fc.txq = s.fc.txq) : SendsLatched s t := by
  obtain ⟨f, htxq, hf⟩ := h
  exact ⟨f, hu ▸ htxq, hf⟩

theorem sendsLatched_attempting {s : State} {f : Bytes} (hf : s.tm.txframe = some f) :
    SendsLatched s (attempting .execute f s) := ⟨f, rfl, .inr ⟨hf, rfl, rfl⟩⟩

theorem failedWith_fc (c : Txn) (hs : Bool) (e : ErrCode) (s : State) : (failedWith c hs e s).fc = s.fc := by
  unfold failedWith
  split <;> rfl

theorem finalize_fc (o : TxnOutcome) (s : State) : (finalize o s).fc = s.fc := by
  cases hc : s.tm.cur with
  | none => rw [finalize_none hc]
  | some c => rw [finalize_eq hc]; rfl

theorem fail_fc (e : ErrCode) (s : State) : (fail e s).fc = s.fc := by
  cases hc : s.tm.cur with
  | none => rw [fail_none hc]
  | some c => rw [fail_eq hc, failedWith_fc]

theorem buildError_fc (e : ErrCode) (t : Txn) (s : State) : (buildError e t s).fc = s.fc := by
  unfold buildError
  split
  · exact fail_fc ..
  · exact finalize_fc ..

theorem materialize_fc (cfg : Config) (t : Txn) (s : State) : (materialize cfg t s).1.fc = s.fc := by
  unfold materialize
  split
  · rfl
  · split
    · rfl
    · next n _ =>
      cases hk : sealChecks n t.secPlain none s with
      | error e => rw [sealMessage_error cfg hk]
      | ok x =>
        rw [sealMessage_ok cfg hk]
        dsimp only
        split <;> rfl

theorem storeReplyNonce_fc (cfg : Config) (r : Option Message) (s : State) : (storeReplyNonce cfg r s).fc = s.fc := by
  unfold storeReplyNonce
  split <;> rfl

theorem sendsLatched_sendBuilt {s : State} (hst : s.tm.st = .execute) (t : Txn) (p : Bytes) :
    SendsLatched s (sendBuilt t p s) := by
  unfold sendBuilt
  split
  · next f _ => exact ⟨f, rfl, .inr ⟨rfl, hst, rfl⟩⟩
  · exact .of_fc (buildError_fc ..)

/-- `EnterExecute` sends the latched frame, the one it has built and latched, or nothing (44_transaction_fsm.md R253). -/
theorem sendsLatched_enterExecute (cfg : Config) (s : State) : SendsLatched s (enterExecute cfg s) := by
  cases hc : s.tm.cur with
  | none => exact .of_fc (by simp only [enterExecute, hc])
  | some c =>
    cases hf : s.tm.txframe with
    | some f => rw [enterExecute_latched cfg hc hf]; exact sendsLatched_attempting hf
    | none =>
      simp only [enterExecute, hc, hf]
      have hfc := materialize_fc cfg c (setSt .execute s)
      have htm := (materialize_frame cfg c (setSt .execute s)).1
      revert hfc htm
      rcases materialize cfg c (setSt .execute s) with ⟨s', e | p⟩
      · exact fun hfc _ => .of_fc (by rw [buildError_fc, hfc, setSt_fc])
      · exact fun hfc htm => (sendsLatched_sendBuilt (by rw [htm, setSt_st]) c p).congr (by rw [hfc, setSt_fc])

theorem sendsLatched_primitiveSuccess (cfg : Config) (r : Option Message) (s : State) :
    SendsLatched s (primitiveSuccess cfg r s) := by
  unfold primitiveSuccess
  split
  · exact (sendsLatched_enterExecute cfg _).congr (by rw [storeReplyNonce_fc, latchReply_fc, endPrimitive_fc])
  · unfold executeSuccess
    split
    · exact .of_fc rfl
    · split
      · exact .of_fc rfl
      · exact .of_fc (by rw [finalize_fc, endPrimitive_fc])
  · exact .of_fc rfl
  · exact .of_fc rfl
  · exact .of_fc rfl

theorem sendsLatched_linkAck (cfg : Config) (s : State) : SendsLatched s (linkAck cfg s) := by
  unfold linkAck
  split
  · split
    · exact sendsLatched_primitiveSuccess ..
    · exact .of_fc rfl
  · exact .of_fc rfl

theorem linkNak_fc (s : State) : (linkNak s).fc = s.fc := by
  unfold linkNak
  split
  · exact fail_fc ..
  · rfl

theorem linkCan_fc (s : State) : (linkCan s).fc = s.fc := by
  unfold linkCan
  split
  · exact fail_fc ..
  · rfl

theorem sendsLatched_msgInReply (cfg : Config) (m : Message) (s : State) : SendsLatched s (msgInReply cfg m s) := by
  unfold msgInReply
  split
  · exact sendsLatched_primitiveSuccess ..
  · exact .of_fc rfl
  · exact .of_fc (fail_fc ..)
  · exact .of_fc rfl

theorem msgInUpdate_fc (cfg : Config) (m : Message) (s : State) : (msgInUpdate cfg m s).fc = s.fc := by
  unfold msgInUpdate
  split
  · rfl
  · split
    · exact finalize_fc ..
    · rfl

theorem sendsLatched_msg (cfg : Config) (m : Message) (s : State) : SendsLatched s (msg cfg m s) := by
  unfold msg
  split
  · split
    · exact sendsLatched_msgInReply ..
    · exact .of_fc rfl
  · split
    · exact sendsLatched_msgInReply ..
    · exact .of_fc rfl
  · exact .of_fc (msgInUpdate_fc ..)
  · exact .of_fc rfl
  · exact .of_fc rfl

/-- After FC's own answer a symbol queues nothing, or the frame TM has latched (40_frame_decode.md R115, R127). -/
theorem sendsLatched_handleOutcome (cfg : Config) (o : ParseOutcome) (s : State) :
    SendsLatched (linkPart o s) (handleOutcome cfg o s) := by
  have hsilent : s.fc.txq = s.fc.txq ++ [] := (List.append_nil _).symm
  match o with
  | .incomplete => exact .of_txq hsilent
  | .skip _ => exact .of_txq hsilent
  | .frame .ack n => exact (sendsLatched_linkAck cfg (consume n s)).congr hsilent
  | .frame .nak n => exact (SendsLatched.of_fc (linkNak_fc (consume n s))).congr hsilent
  | .frame .can n => exact (SendsLatched.of_fc (linkCan_fc (consume n s))).congr hsilent
  | .frame (.data d) n =>
    change SendsLatched (acceptFrame n s) (dispatchData cfg n d s)
    unfold dispatchData
    split
    · exact sendsLatched_msg ..
    · exact .of_fc rfl
  | .invalid .checksum n => exact .of_fc (s := rejectFrame n s) rfl
  | .invalid .length n => exact .of_fc (s := rejectFrame n s) rfl

/-- Settles O25: the one symbol a byte can complete queues FC's answer and then what TM sends. -/
theorem rxByteTransmits : Obligations.RxByteTransmits := by
  intro s b hs
  obtain ⟨f, htxq, hf⟩ := sendsLatched_handleOutcome Config.host (tryParse (s.fc.rxbuf ++ [b])) (receive b s)
  exact ⟨_, f, congrArg Host.Outcome.next (receiveByte_eq Config.host b hs), htxq, hf⟩

end Sys2Proof.Machine

/-! SUPPORT. The encoder and the transmit queue (spec/41_frame_encode.md R140 to R147): what a serialized frame ends in, that
serializing what was parsed gives the frame back, and the two steps that serialize and transmit. -/

namespace Sys2Proof.Machine

/-! ### The checksum of a serialized frame -/

/-- The checksum folds the bytes between the start marker and itself (41_frame_encode.md R140). -/
theorem checksum_eq_fold (t f : Byte) (p : Bytes) :
    checksum t f p = 0xFF ^^^ xorfold (toByte (p.length + 3) :: t :: f :: p) := by
  simp [checksum, BitVec.xor_assoc]

/-- `Serialize` answers the frame of a payload that fits, and nothing else. -/
theorem serialize_eq_ok {t f : Byte} {p frame : Bytes} (h : serialize t f p = .ok frame) : frame = frameBytes t f p := by
  by_cases hp : p.length ≤ 252
  · rw [serialize_ok hp] at h
    exact (Except.ok.inj h).symm
  · rw [serialize_error (Nat.lt_of_not_le hp)] at h
    cases h

theorem frameBytes_getLast? (t f : Byte) (p : Bytes) : (frameBytes t f p).getLast? = some (checksum t f p) :=
  List.getLast?_concat

/-- The bytes between the start marker and the checksum. -/
theorem slice_frameBytes (t f : Byte) (p : Bytes) :
    slice (frameBytes t f p) 1 (p.length + 3) = toByte (p.length + 3) :: t :: f :: p :=
  slice_middle [sofByte] (toByte (p.length + 3) :: t :: f :: p) [checksum t f p] rfl (by simp; omega)

/-- Settles O34: the last byte is the checksum, and the bytes between are those it folds. -/
theorem checksumLaw : Obligations.ChecksumLaw := by
  intro t f p frame h
  obtain rfl := serialize_eq_ok h
  have hlen : (frameBytes t f p).length - 2 = p.length + 3 := by rw [frameBytes_length]; omega
  rw [hlen, slice_frameBytes, frameBytes_getLast?, checksum_eq_fold]

/-! ### Serializing what was parsed -/

/-- Only a start marker and a length byte open a Data frame: any other first byte is a symbol of one byte. -/
theorem tryParse_data_sof {buf : Bytes} {d : DataFrame} {n : Nat} (h : tryParse buf = .frame (.data d) n) :
    ∃ len rest, buf = sofByte :: len :: rest := by
  have hn : lineLength buf = d.payload.length + 5 := by
    rw [lineLength_eq, h]
    exact (tryParse_data_length h).symm
  match buf with
  | [] => cases h
  | b :: rest =>
    have hb : b = sofByte := by
      by_contra hb
      rw [(tryParse_control rest hb).2] at hn
      omega
    subst hb
    match rest with
    | [] => rw [show tryParse [sofByte] = .incomplete by decide] at h; cases h
    | len :: rest => exact ⟨len, rest, rfl⟩

/-- What `TryParse` has checked of a Data frame: it is whole, it has room for the type, the function id and the checksum, and
the checksum is right (40_frame_decode.md R110). -/
theorem tryParse_data_checked {len : Byte} {rest : Bytes} {d : DataFrame} {n : Nat}
    (h : tryParse (sofByte :: len :: rest) = .frame (.data d) n) :
    len.toNat ≤ rest.length ∧ 3 ≤ len.toNat ∧
      0xFF ^^^ xorfold (len :: rest.take (len.toNat - 1)) = rest.getD (len.toNat - 1) 0 := by
  rw [tryParse_sof] at h
  split at h
  · cases h
  · next hwhole =>
    unfold parseData at h
    split at h
    · cases h
    · next hlen =>
      split at h
      · cases h
      · next hsum =>
        rw [slice_covered rest (by omega), getD_last rest (by omega)] at hsum
        exact ⟨Nat.le_of_not_lt hwhole, Nat.le_of_not_lt hlen, not_not.mp hsum⟩

/-- The fields a length byte of at least 3 declares (30_encoding.md R82, R83). -/
theorem exists_fields {body : Bytes} (h : 3 ≤ body.length) : ∃ t f p sum, body = t :: f :: (p ++ [sum]) := by
  match body with
  | t :: f :: x :: rest =>
    have hne : x :: rest ≠ [] := List.cons_ne_nil x rest
    exact ⟨t, f, (x :: rest).dropLast, (x :: rest).getLast hne, by rw [List.dropLast_append_getLast hne]⟩

/-- A frame with the length byte and the checksum of its fields is the serialized one. -/
theorem frameBytes_of_fields {len t f sum : Byte} {p : Bytes} (hlen : len.toNat = p.length + 3)
    (hsum : 0xFF ^^^ xorfold (len :: t :: f :: p) = sum) :
    sofByte :: len :: t :: f :: (p ++ [sum]) = frameBytes t f p := by
  have hbyte : toByte (p.length + 3) = len := by simp [toByte, ← hlen]
  rw [frameBytes, checksum_eq_fold, hbyte, hsum]
  rfl

/-- Settles O33: the buffer is a start marker, a length byte, the fields and the checksum that `TryParse` has checked, and
these are what `Serialize` puts together. -/
theorem serializeParse : Obligations.SerializeParse := by
  intro buf d h
  obtain ⟨len, body, rfl⟩ := tryParse_data_sof h
  obtain ⟨hwhole, hroom, hsum⟩ := tryParse_data_checked h
  have hall : body.length = len.toNat := by
    have hn : lineLength (sofByte :: len :: body) = body.length + 2 := by rw [lineLength_eq, h]; rfl
    rw [lineLength_sof hwhole] at hn
    omega
  obtain ⟨t, f, p, sum, rfl⟩ := exists_fields (hall ▸ hroom)
  have hlen : len.toNat = p.length + 3 := by simpa using hall.symm
  replace hsum : 0xFF ^^^ xorfold (len :: t :: f :: p) = sum := by simpa [hlen] using hsum
  rw [tryParse_dataFrame [] hlen hsum, ParseOutcome.frame.injEq, Frame.data.injEq] at h
  obtain ⟨rfl, -⟩ := h
  have hfits : p.length ≤ 252 := by have := len.isLt; omega
  rw [frameBytes_of_fields hlen hsum]
  exact serialize_ok hfits

/-! ### The steps of the encoder and of link-out -/

/-- Settles O27: by cases on `TXQ`, as the step is defined. -/
theorem txEmitSendsOldestByte : Obligations.TxEmitSendsOldestByte := by
  intro s
  refine ⟨fun hempty => ?_, fun b rest hq => ?_⟩
  · change execTxEmit s = _
    rw [execTxEmit, hempty]
  · change execTxEmit s = _
    rw [execTxEmit, hq]
    rfl

/-- Settles O28: the encoder's answer, by whether the payload fits. -/
theorem dataEncodeAnswersFrame : Obligations.DataEncodeAnswersFrame := by
  intro s t f p
  change Host.Outcome.next (encodeReply (serialize t f p) s) = _
  by_cases hp : p.length > 252
  · rw [serialize_error hp, if_pos hp]
    rfl
  · rw [serialize_ok (Nat.le_of_not_lt hp), if_neg hp]
    rfl

end Sys2Proof.Machine

/-! SUPPORT. The cipher core (spec/42_cipher_core.md R170 to R185): which byte of the keystream each byte of OFB meets, the
chain of CBC-MAC block by block, and what the five keyed commands answer. -/

namespace Sys2Proof.Machine

/-! ### OFB -/

/-- Byte `i` of the keystream is byte `i mod 16` of the block that `i div 16 + 1` runs of the cipher make of the IV. -/
theorem ofbStream_getElem? {key : Bytes} (hkey : key.length = 16) (o : Bytes) {k i : Nat} (hi : i < 16 * k) :
    (ofbStream key o k)[i]? = some (((aesEnc key)^[i / 16 + 1] o).getD (i % 16) 0) := by
  induction k generalizing o i with
  | zero => omega
  | succ k ih =>
    have hblock : (aesEnc key o).length = 16 := aesEnc_length key o hkey
    rw [ofbStream_succ]
    by_cases hfirst : i < 16
    · have hin : i < (aesEnc key o).length := by omega
      rw [List.getElem?_append_left hin, Nat.div_eq_of_lt hfirst, Nat.mod_eq_of_lt hfirst, zero_add,
        Function.iterate_one, List.getD_eq_getElem _ _ hin, List.getElem?_eq_getElem hin]
    · have hdiv : (i - 16) / 16 + 1 = i / 16 := by omega
      have hmod : (i - 16) % 16 = i % 16 := by omega
      rw [List.getElem?_append_right (by omega), hblock, ih (aesEnc key o) (by omega), hdiv, hmod,
        ← Function.iterate_succ_apply]

/-- The keystream covers the data: its blocks are as many as the data begins (42_cipher_core.md R170). -/
theorem length_le_ofbStream_length {key : Bytes} (hkey : key.length = 16) (o data : Bytes) :
    data.length ≤ (ofbStream key o ((data.length + 15) / 16)).length := by
  rw [ofbStream_length key o hkey]
  omega

/-- OFB undoes itself: the second run makes the same keystream (42_cipher_core.md R170). -/
theorem ofb_ofb {key : Bytes} (hkey : key.length = 16) (o data : Bytes) : ofb key o (ofb key o data) = data := by
  rw [ofb, ofb_length key o data hkey, ofb]
  exact xorBytes_cancel data _ (length_le_ofbStream_length hkey o data)

/-- Settles O11: `ofb` is the exclusive or with the keystream, whose bytes are those of the iterated cipher. -/
theorem ofbKeystream : Obligations.OfbKeystream := by
  intro key iv data hkey _
  refine ⟨ofb_length key iv data hkey, fun i hi => ?_, ofb_ofb hkey iv data⟩
  have hstream := ofbStream_getElem? hkey iv (k := (data.length + 15) / 16) (i := i) (by omega)
  simp [ofb, xorBytes, List.getElem?_zipWith, hstream, List.getElem?_eq_getElem hi]

/-! ### CBC-MAC -/

theorem dvd_zeroPad_length (d : Bytes) : 16 ∣ (zeroPad d).length := by
  rw [zeroPad_len]
  omega

/-- Whole blocks are chained as they are. -/
theorem cbcMacFull_of_dvd (key : Bytes) {d : Bytes} (h : 16 ∣ d.length) :
    cbcMacFull key d = cbcChain key (List.replicate 16 0) d (d.length / 16) := by
  rw [cbcMacFull, zeroPad_of_dvd d h]

/-- One block after `k` whole ones is added to the value they leave, and ciphered (42_cipher_core.md R175). -/
theorem cbcChain_append_block (key x : Bytes) {p b : Bytes} {k : Nat} (hp : p.length = 16 * k) (hb : b.length = 16) :
    cbcChain key x (p ++ b) (k + 1) = aesEnc key (xorBytes (cbcChain key x p k) b) := by
  induction k generalizing x p with
  | zero =>
    obtain rfl : p = [] := List.eq_nil_of_length_eq_zero hp
    rw [cbcChain_succ, List.nil_append, List.take_of_length_le hb.le, cbcChain, cbcChain]
  | succ k ih =>
    have hrest : (p.drop 16).length = 16 * k := by rw [List.length_drop]; omega
    rw [cbcChain_succ, List.take_append_of_le_length (by omega), List.drop_append_of_le_length (by omega), ih _ hrest,
      ← cbcChain_succ]

/-- No block leaves the chain where it starts: at zero. -/
theorem cbcMacFull_nil (key : Bytes) : cbcMacFull key [] = List.replicate 16 0 := rfl

theorem cbcMacFull_append_block (key : Bytes) {d b : Bytes} (hd : 16 ∣ d.length) (hb : b.length = 16) :
    cbcMacFull key (d ++ b) = aesEnc key (xorBytes (cbcMacFull key d) b) := by
  have hlen : (d ++ b).length = d.length + 16 := by rw [List.length_append, hb]
  have hblocks : (d ++ b).length / 16 = d.length / 16 + 1 := by omega
  rw [cbcMacFull_of_dvd key (d := d ++ b) (by omega), hblocks, cbcMacFull_of_dvd key hd,
    cbcChain_append_block key _ (by omega) hb]

theorem xorBytes_replicate_zero (b : Bytes) : xorBytes (List.replicate b.length 0) b = b := by
  induction b with
  | nil => rfl
  | cons x rest ih => simpa [xorBytes, List.replicate_succ] using ih

/-- Settles O12: the chain takes one block more at its end, and the first block is the one after none. -/
theorem cbcMacChain : Obligations.CbcMacChain := by
  refine ⟨fun d => ⟨_, Nat.mod_lt _ (by omega), rfl, dvd_zeroPad_length d⟩, fun key d => ?_, fun key b hb => ?_,
    fun key d b _ hd hb => cbcMacFull_append_block key hd hb⟩
  · rw [cbcMacFull_of_dvd key (dvd_zeroPad_length d), cbcMacFull]
  · have hfirst := cbcMacFull_append_block key (d := []) (dvd_zero 16) hb
    rwa [List.nil_append, cbcMacFull_nil, ← hb, xorBytes_replicate_zero] at hfirst

theorem cbcChain_length {key : Bytes} (hkey : key.length = 16) {x : Bytes} (hx : x.length = 16) (p : Bytes) (k : Nat) :
    (cbcChain key x p k).length = 16 := by
  induction k generalizing x p with
  | zero => exact hx
  | succ k ih => rw [cbcChain_succ]; exact ih (aesEnc_length key _ hkey) _

/-- A MAC is 8 bytes (42_cipher_core.md R176). -/
theorem macFor_length {key : Bytes} (hkey : key.length = 16) (sn rn : Bytes) (cmd : Byte) (sender receiver : NodeId)
    (ct : Bytes) : (macFor key sn rn cmd sender receiver ct).length = 8 := by
  rw [macFor, List.length_take, cbcMacFull, cbcChain_length hkey List.length_replicate]
  rfl

/-! ### The keyed commands -/

/-- Settles O7: by the checks of `SE.SETKEY` in their order. -/
theorem seSetkeyLoadsKeys : Obligations.SeSetkeyLoadsKeys := by
  intro s key
  refine congrArg Host.Outcome.next (show setKey key s = _ from ?_)
  unfold setKey Config.keyLen
  by_cases hlen : key.length ≠ 16
  · rw [if_pos hlen, if_pos hlen]
    rfl
  · rw [if_neg hlen, if_neg hlen]
    by_cases hvalid : s.se.keyvalid = true
    · rw [if_pos hvalid, if_pos hvalid]
      rfl
    · rw [if_neg hvalid, if_neg hvalid]
      rfl

theorem badNonces_iff (sn rn : Bytes) : badNonces sn rn = true ↔ sn.length ≠ 8 ∨ rn.length ≠ 8 := by
  simp [badNonces, Config.nonceLen]

/-- What `SE.ENCRYPT` and `SE.DECRYPT` answer (42_cipher_core.md R180, R181). -/
theorem crypt_eq (data sn rn : Bytes) (s : State) : crypt data sn rn s = replied
    (if s.se.keyvalid = false then .error .noKey
     else if sn.length ≠ 8 ∨ rn.length ≠ 8 then .error .nonceLength
     else .bytes (ofb s.se.enckey (sn ++ rn) data)) s := by
  simp only [crypt, badNonces_iff]
  split
  · rfl
  · split
    · rfl
    · rfl

/-- Settles O8: the two commands are one function. -/
theorem seEncryptDecryptResults : Obligations.SeEncryptDecryptResults := fun s data sn rn =>
  ⟨congrArg Host.Outcome.next (crypt_eq data sn rn s), congrArg Host.Outcome.next (crypt_eq data sn rn s)⟩

/-- The checks of `SE.MAC` and `SE.VERIFY` choose between an error and the result `r` (42_cipher_core.md R182). -/
theorem macError_elim (sn rn ct : Bytes) (s : State) (r : Reply) : (macError sn rn ct s).elim r .error =
    if s.se.keyvalid = false then .error .noKey
    else if sn.length ≠ 8 ∨ rn.length ≠ 8 then .error .nonceLength
    else if ct.length > 255 then .error .precondition
    else r := by
  simp only [macError, badNonces_iff, apply_ite (fun e : Option ErrCode => e.elim r Reply.error), Option.elim_some,
    Option.elim_none]

theorem computeMac_eq (sn rn : Bytes) (cmd : Byte) (sender receiver : NodeId) (ct : Bytes) (s : State) :
    computeMac sn rn cmd sender receiver ct s =
      replied ((macError sn rn ct s).elim (.bytes (macFor s.se.authkey sn rn cmd sender receiver ct)) .error) s := by
  rw [macFor_eq, computeMac]
  cases macError sn rn ct s with
  | none => rfl
  | some e => rfl

theorem verifyMac_eq (sn rn : Bytes) (cmd : Byte) (sender receiver : NodeId) (ct mac : Bytes) (s : State) :
    verifyMac sn rn cmd sender receiver ct mac s =
      replied ((macError sn rn ct s).elim
        (.truth (decide (mac.length = 8 ∧ macFor s.se.authkey sn rn cmd sender receiver ct = mac))) .error) s := by
  simp only [macFor_eq, verifyMac, Bool.decide_and, beq_eq_decide]
  cases macError sn rn ct s with
  | none => rfl
  | some e => rfl

/-- Settles O9: both commands answer by the same checks. -/
theorem seMacVerifyResults : Obligations.SeMacVerifyResults := by
  intro s sn rn cmd sender receiver ct mac
  simp only [← macError_elim]
  exact ⟨congrArg Host.Outcome.next (computeMac_eq sn rn cmd sender receiver ct s),
    congrArg Host.Outcome.next (verifyMac_eq sn rn cmd sender receiver ct mac s)⟩

/-! ### Round trips -/

/-- `SE.ENCRYPT` and `SE.DECRYPT` with a key and nonces of 8 bytes. -/
theorem crypt_of_keyed {s : State} {sn rn : Bytes} (hkey : s.se.keyvalid = true) (hsn : sn.length = 8)
    (hrn : rn.length = 8) (data : Bytes) :
    crypt data sn rn s = replied (.bytes (ofb s.se.enckey (sn ++ rn) data)) s := by
  simp [crypt_eq, hkey, hsn, hrn]

theorem macError_eq_none {s : State} {sn rn ct : Bytes} (hkey : s.se.keyvalid = true) (hsn : sn.length = 8)
    (hrn : rn.length = 8) (hct : ct.length ≤ 255) : macError sn rn ct s = none := by
  simp [macError, badNonces_iff, hkey, hsn, hrn, hct]

/-- Settles O10: OFB undoes itself, and the MAC that `SE.VERIFY` compares with is the one `SE.MAC` answered, because neither
command writes a register. -/
theorem cipherRoundTrip : Obligations.CipherRoundTrip := by
  refine ⟨fun s p sn rn hkey henc hsn hrn => ?_, fun s sn rn cmd sender receiver ct hkey hauth hsn hrn hct => ?_⟩
  · refine ⟨_, ofb s.se.enckey (sn ++ rn) p, _, congrArg Host.Outcome.next (crypt_of_keyed hkey hsn hrn p), rfl,
      ofb_length _ _ p henc, congrArg Host.Outcome.next (crypt_of_keyed (by exact hkey) hsn hrn _), ?_⟩
    change _ ++ [Reply.bytes (ofb s.se.enckey (sn ++ rn) (ofb s.se.enckey (sn ++ rn) p))] = _
    rw [ofb_ofb henc]
  · have hmac := computeMac_eq sn rn cmd sender receiver ct s
    rw [macError_eq_none hkey hsn hrn hct] at hmac
    have hlen := macFor_length hauth sn rn cmd sender receiver ct
    refine ⟨_, _, congrArg Host.Outcome.next hmac, rfl, hlen, fun m' => ?_⟩
    refine ⟨_, congrArg Host.Outcome.next (verifyMac_eq sn rn cmd sender receiver ct m' _), ?_⟩
    rw [macError_eq_none (by exact hkey) hsn hrn hct]
    have hsame : (m'.length = 8 ∧ macFor s.se.authkey sn rn cmd sender receiver ct = m') ↔
        m' = macFor s.se.authkey sn rn cmd sender receiver ct :=
      ⟨fun h => h.2.symm, fun h => ⟨h ▸ hlen, h.symm⟩⟩
    exact congrArg (fun b => _ ++ [Reply.truth b]) (decide_eq_decide.mpr hsame)

end Sys2Proof.Machine

/-! SUPPORT. The nonce table and the commands that use it (spec/43_nonce_and_security_ops.md R199 to R214): what each command
answers and leaves, that a sealed message opens, and what a nonce can go through. -/

namespace Sys2Proof.Machine

/-! ### The node id and the observables -/

/-- Settles O6: both commands are single writes of the model. -/
theorem sysSetidStatusResults : Obligations.SysSetidStatusResults := ⟨fun _ _ => rfl, fun _ => rfl⟩

/-! ### Taking, releasing, expiring -/

theorem takeNonce_absent {k : NonceKey} {s : State} (h : ntFind k s.se.nt = none) :
    takeNonce k s = replied (.error .nonceNotFound) s := by
  rw [takeNonce, h]
  rfl

theorem takeNonce_stored {k : NonceKey} {s : State} {e : NonceEntry} (h : ntFind k s.se.nt = some e) :
    takeNonce k s = replied (.bytes e.nonce) (dropNonce k s) := by
  rw [takeNonce, h]
  rfl

/-- Settles O21: by whether the nonce is stored. -/
theorem ntTakeDeletesNonce : Obligations.NtTakeDeletesNonce := fun s issuer id =>
  ⟨fun habsent => congrArg Host.Outcome.next (takeNonce_absent habsent), fun _ hstored =>
    ⟨_, congrArg Host.Outcome.next (takeNonce_stored hstored), fun k => ntFind_ntDelete ⟨issuer, id⟩ k s.se.nt, rfl⟩⟩

theorem releaseNonce_absent {k : NonceKey} {s : State} (h : ntFind k s.se.nt = none) :
    releaseNonce k s = replied (.error .nonceNotFound) s := by
  rw [releaseNonce, h]
  rfl

theorem releaseNonce_stored {k : NonceKey} {s : State} {e : NonceEntry} (h : ntFind k s.se.nt = some e) :
    releaseNonce k s = replied .done (setNt (ntSetFree k true s.se.nt) s) := by
  rw [releaseNonce, h]
  rfl

/-- Settles O22: by whether the nonce is stored. -/
theorem ntReleaseFreesNonce : Obligations.NtReleaseFreesNonce := by
  refine fun s issuer id => ⟨fun habsent => congrArg Host.Outcome.next (releaseNonce_absent habsent), fun e hstored =>
    ⟨_, congrArg Host.Outcome.next (releaseNonce_stored hstored), fun k => ?_, rfl⟩⟩
  have hfind := ntFind_ntSetFree ⟨issuer, id⟩ k true s.se.nt
  rwa [hstored] at hfind

/-- Settles O23: by whether the nonce is stored. -/
theorem ntExpireDeletesNonce : Obligations.NtExpireDeletesNonce := by
  refine fun s issuer id => ⟨fun habsent => ?_, fun e hstored =>
    ⟨dropNonce ⟨issuer, id⟩ s, ?_, fun k => ntFind_ntDelete ⟨issuer, id⟩ k s.se.nt, rfl⟩⟩
  · simp [exec, execNtExpire, habsent]
  · simp [exec, execNtExpire, hstored]

/-! ### Finding a free nonce -/

theorem ntFreeOf_eq_nil {issuer : NodeId} {t : NonceTable} :
    ntFreeOf issuer t = [] ↔ ∀ x ∈ t, x.1.issuer = issuer → x.2.free = false := by
  simp only [List.eq_nil_iff_forall_not_mem, mem_ntFreeOf, not_and, Bool.not_eq_true, and_imp]

theorem findFree_none {issuer : NodeId} {s : State} (h : ntFreeOf issuer s.se.nt = []) :
    findFree issuer s = replied (.found none) s := by
  rw [findFree, ntOldest_isNone.mpr h]
  rfl

theorem findFree_some {issuer : NodeId} {s : State} {k : NonceKey} {e : NonceEntry}
    (h : ntOldest (ntFreeOf issuer s.se.nt) = some (k, e)) :
    findFree issuer s = replied (.found (some (k.id, e.nonce))) (setNt (ntSetFree k false s.se.nt) s) := by
  rw [findFree, h]
  rfl

/-- Settles O20: the oldest entry of the free ones is one of them, and none of them has a smaller stamp. -/
theorem ntFindfreeReservesOldest : Obligations.NtFindfreeReservesOldest := by
  refine fun s issuer => ⟨fun hnone => congrArg Host.Outcome.next (findFree_none (ntFreeOf_eq_nil.mpr hnone)), ?_⟩
  rintro ⟨x, hx, hissuer, hfree⟩
  have hmem : x ∈ ntFreeOf issuer s.se.nt := mem_ntFreeOf.mpr ⟨⟨hx, hissuer⟩, hfree⟩
  obtain ⟨⟨k, e⟩, hold⟩ := Option.ne_none_iff_exists'.mp fun h => List.ne_nil_of_mem hmem (ntOldest_isNone.mp h)
  obtain ⟨hke, hmin⟩ := ntOldest_spec hold
  obtain ⟨⟨hin, hk⟩, he⟩ := mem_ntFreeOf.mp hke
  exact ⟨k, e, _, hin, hk, he, fun y hy hyi hyf => hmin y (mem_ntFreeOf.mpr ⟨⟨hy, hyi⟩, hyf⟩),
    congrArg Host.Outcome.next (findFree_some hold), fun k' => ntFind_ntSetFree k k' false s.se.nt, rfl⟩

/-! ### Storing a nonce -/

theorem keepNonce_badLength {nonce : Bytes} (h : nonce.length ≠ 8) (issuer receiver : NodeId) (free : Bool) (s : State) :
    keepNonce issuer nonce receiver free s = replied (.error .nonceLength) s := if_pos h

theorem keepNonce_stores {nonce : Bytes} (h : nonce.length = 8) (issuer receiver : NodeId) (free : Bool) (s : State) :
    keepNonce issuer nonce receiver free s = replied .done (storeNonce issuer nonce receiver free s) :=
  if_neg (not_not.mpr h)

/-- Settles O19: by the length of the nonce. -/
theorem ntStoreStoresNonce : Obligations.NtStoreStoresNonce := fun s issuer _ receiver free =>
  ⟨fun hbad => congrArg Host.Outcome.next (keepNonce_badLength hbad issuer receiver free s), fun hlen =>
    ⟨_, congrArg Host.Outcome.next (keepNonce_stores hlen issuer receiver free s),
      fun k => ntFind_ntPut _ k _ s.se.nt, rfl⟩⟩

/-- The nonce drawn has an id that is not in use, whenever there is one (43_nonce_and_security_ops.md R201). -/
theorem freshNonce_id_unused (c : Config) {own : NodeId} {s : State} (h : ∃ x, x ∉ usedIds own s.se.nt) :
    (freshNonce c own s).getD 0 0 ∉ usedIds own s.se.nt := by
  have hlen := drawn_length c Config.nonceLen s
  unfold freshNonce
  split
  · next hnil => rw [hnil] at hlen; nomatch hlen
  · exact freshId_notMem h

theorem generateNonce_noId (c : Config) (forNode : NodeId) {s : State} (h : s.se.ownid = none) :
    generateNonce c forNode s = replied (.error .precondition) s := by
  rw [generateNonce, h]
  rfl

theorem generateNonce_full (c : Config) (forNode : NodeId) {s : State} {own : NodeId} (ho : s.se.ownid = some own)
    (hfull : (usedIds own s.se.nt).length = 256) :
    generateNonce c forNode s = replied (.error .nonceTableFull) s := by
  simp only [generateNonce, ho, hfull, if_true]
  rfl

theorem generateNonce_stores (c : Config) (forNode : NodeId) {s : State} {own : NodeId} (ho : s.se.ownid = some own)
    (hroom : (usedIds own s.se.nt).length ≠ 256) :
    generateNonce c forNode s = replied (.bytes (freshNonce c own s))
      (spend 8 (storeNonce own (freshNonce c own s) forNode false s)) := by
  simp only [generateNonce, ho, hroom, if_false]
  rfl

/-- An id that no entry has is an id that is not in use. -/
theorem exists_unusedId {own : NodeId} {t : NonceTable} (h : ∃ x, ∀ e, ((⟨own, x⟩, e) : NonceKey × NonceEntry) ∉ t) :
    ∃ x, x ∉ usedIds own t :=
  h.imp fun _ hx hused => let ⟨e, he⟩ := mem_usedIds.mp hused; hx e he

/-- With an id left to give, `NT.GENERATE` stores what it drew. -/
theorem generateNonce_of_room (c : Config) (forNode : NodeId) {s : State} {own : NodeId} (ho : s.se.ownid = some own)
    (hinv : NtInv s) (hroom : ∃ x, x ∉ usedIds own s.se.nt) :
    generateNonce c forNode s = replied (.bytes (freshNonce c own s))
      (spend 8 (storeNonce own (freshNonce c own s) forNode false s)) := by
  obtain ⟨x, hx⟩ := hroom
  exact generateNonce_stores c forNode ho fun hfull => hx ((usedIds_full hinv.1).mp hfull x)

/-- Settles O18: by the node id and by whether an id is left to give. -/
theorem ntGenerateStoresFreshNonce : Obligations.NtGenerateStoresFreshNonce := by
  refine fun s forNode => ⟨fun hno => congrArg Host.Outcome.next (generateNonce_noId _ forNode hno),
    fun own ho hinv => ⟨fun hall => ?full, fun hsome => ?fresh⟩⟩
  case full =>
    have hfull := (usedIds_full hinv.1).mpr fun x => mem_usedIds.mpr (hall x)
    exact congrArg Host.Outcome.next (generateNonce_full _ forNode ho hfull)
  case fresh =>
    have hroom := exists_unusedId hsome
    refine ⟨_, freshNonce Config.host own s, congrArg Host.Outcome.next (generateNonce_of_room _ forNode ho hinv hroom),
      freshNonce_length _ own s, fun e he => ?_, fun k => ntFind_ntPut _ k _ s.se.nt, rfl⟩
    exact freshNonce_id_unused _ hroom (mem_usedIds.mpr ⟨e, he⟩)

/-! ### Sealing -/

theorem sealCommand_error (c : Config) {r : NodeId} {p : Bytes} {n : Option Byte} {s : State} {e : ErrCode}
    (h : sealChecks r p n s = .error e) (cmd : Byte) : sealCommand c r cmd p n s = replied (.error e) s := by
  rw [sealCommand, sealMessage_error c h]
  rfl

/-- What `SE.SEAL` answers and leaves when its checks pass (43_nonce_and_security_ops.md R210). -/
theorem sealCommand_ok {r own : NodeId} {p : Bytes} {n : Option Byte} {s : State} {k : NonceKey} {e : NonceEntry}
    (h : sealChecks r p n s = .ok (own, k, e)) (cmd : Byte) :
    sealCommand Config.host r cmd p n s =
      let ct := ofb s.se.enckey (nextRandom s ++ e.nonce) p
      replied (.sealedParts (nextRandom s) ct k.id (macFor s.se.authkey (nextRandom s) e.nonce cmd own r ct)) (spent k s) := by
  simp only [sealCommand, sealMessage_ok _ h, macFor_eq]
  rfl

/-- A named nonce is the one under its key. -/
theorem sealKey_named (own r : NodeId) (i : Byte) (t : NonceTable) :
    sealKey own r (some i) t = (ntFind ⟨r, i⟩ t).map fun e => (⟨r, i⟩, e) := rfl

/-- The nonce that `SE.SEAL` spends is one of the receiver's. -/
theorem sealKey_issuer {own r : NodeId} {n : Option Byte} {t : NonceTable} {k : NonceKey} {e : NonceEntry}
    (h : sealKey own r n t = some (k, e)) : k.issuer = r := by
  cases n with
  | some i =>
    obtain ⟨-, -, ⟨rfl, rfl⟩⟩ := Option.map_eq_some_iff.mp h
    rfl
  | none =>
    obtain ⟨-, ⟨hissuer, -⟩, -⟩ := sealKey_none.2 _ h
    exact hissuer

/-- Settles O13: by the checks in their order, and by whether the operand names the nonce. -/
theorem seSealSpendsNonce : Obligations.SeSealSpendsNonce := by
  refine fun s r cmd p n => ⟨fun hkey => congrArg Host.Outcome.next (sealCommand_error _ (sealChecks_noKey hkey) cmd),
    fun hkey hpre => congrArg Host.Outcome.next (sealCommand_error _ (sealChecks_precondition hkey hpre) cmd),
    fun own hkey ho hp => ?_⟩
  have hrefused (h : sealKey own r n s.se.nt = none) :
      exec (.seSeal r cmd p n) s = .next (replied (.error .noNonce) s) :=
    congrArg Host.Outcome.next (sealCommand_error _ (sealChecks_noNonce hkey ho hp h) cmd)
  have hsealed {k : NonceKey} {e : NonceEntry} (h : sealKey own r n s.se.nt = some (k, e)) :
      exec (.seSeal r cmd p n) s = .next _ :=
    congrArg Host.Outcome.next (sealCommand_ok (sealChecks_found hkey ho hp h) cmd)
  cases n with
  | some i =>
    refine ⟨fun habsent => hrefused (by rw [sealKey_named, habsent]; rfl), fun hstored => ?_⟩
    obtain ⟨e, he⟩ := Option.ne_none_iff_exists'.mp hstored
    exact ⟨⟨r, i⟩, e, ⟨rfl, he⟩, hsealed (by rw [sealKey_named, he]; rfl)⟩
  | none =>
    refine ⟨fun habsent => hrefused (sealKey_none.1.mpr habsent), fun hstored => ?_⟩
    obtain ⟨⟨k, e⟩, hke⟩ := Option.ne_none_iff_exists'.mp (mt sealKey_none.1.mp hstored)
    exact ⟨k, e, sealKey_none.2 _ hke, hsealed hke⟩

/-! ### Opening -/

theorem openMessage_error {sender : NodeId} {sn ct : Bytes} {id : Byte} {mac : Bytes} {s : State} {e : ErrCode}
    (h : openChecks sender sn ct id mac s = .error e) (cmd : Byte) :
    openMessage sender cmd sn ct id mac s = replied (.error e) s := by
  rw [openMessage, h]
  rfl

/-- What `SE.OPEN` answers and leaves when its checks pass: the nonce is gone whatever the MAC
(43_nonce_and_security_ops.md R212). -/
theorem openMessage_ok {sender own : NodeId} {sn ct : Bytes} {id : Byte} {mac : Bytes} {s : State} {e : NonceEntry}
    (h : openChecks sender sn ct id mac s = .ok (own, e)) (cmd : Byte) :
    openMessage sender cmd sn ct id mac s = replied
      (if macFor s.se.authkey sn e.nonce cmd sender own ct ≠ mac then .error .macMismatch
       else .bytes (ofb s.se.enckey (sn ++ e.nonce) ct)) (dropNonce ⟨own, id⟩ s) := by
  simp only [openMessage, h, macFor_eq]
  split
  · rfl
  · rfl

section
variable {sender own : NodeId} {sn ct : Bytes} {id : Byte} {mac : Bytes} {s : State}

theorem openChecks_noKey (hkey : s.se.keyvalid = false) : openChecks sender sn ct id mac s = .error .noKey := if_pos hkey

theorem openChecks_noId (hkey : s.se.keyvalid ≠ false) (ho : s.se.ownid = none) :
    openChecks sender sn ct id mac s = .error .precondition := by
  rw [openChecks, if_neg hkey, ho]

theorem openChecks_badNonce (hkey : s.se.keyvalid ≠ false) (ho : s.se.ownid = some own) (hsn : sn.length ≠ 8) :
    openChecks sender sn ct id mac s = .error .nonceLength := by
  rw [openChecks, if_neg hkey, ho]
  exact if_pos hsn

theorem openChecks_badFormat (hkey : s.se.keyvalid ≠ false) (ho : s.se.ownid = some own) (hsn : ¬ sn.length ≠ 8)
    (hbad : mac.length ≠ 8 ∨ ct.length > 255) : openChecks sender sn ct id mac s = .error .payloadFormat := by
  rw [openChecks, if_neg hkey, ho]
  exact (if_neg hsn).trans (if_pos hbad)

/-- Past the first four checks the nonce and its receiver decide (43_nonce_and_security_ops.md R212). -/
theorem openChecks_wellFormed (hkey : s.se.keyvalid ≠ false) (ho : s.se.ownid = some own) (hsn : ¬ sn.length ≠ 8)
    (hgood : ¬ (mac.length ≠ 8 ∨ ct.length > 255)) :
    openChecks sender sn ct id mac s = match ntFind ⟨own, id⟩ s.se.nt with
      | none => .error .nonceNotFound
      | some e => if e.receiver ≠ sender then .error .nonceNotFound else .ok (own, e) := by
  rw [openChecks, if_neg hkey, ho]
  exact (if_neg hsn).trans (if_neg hgood)

theorem openChecks_notFound (hkey : s.se.keyvalid ≠ false) (ho : s.se.ownid = some own) (hsn : ¬ sn.length ≠ 8)
    (hgood : ¬ (mac.length ≠ 8 ∨ ct.length > 255)) (he : ntFind ⟨own, id⟩ s.se.nt = none) :
    openChecks sender sn ct id mac s = .error .nonceNotFound := by
  rw [openChecks_wellFormed hkey ho hsn hgood, he]

theorem openChecks_otherReceiver {e : NonceEntry} (hkey : s.se.keyvalid ≠ false) (ho : s.se.ownid = some own)
    (hsn : ¬ sn.length ≠ 8) (hgood : ¬ (mac.length ≠ 8 ∨ ct.length > 255)) (he : ntFind ⟨own, id⟩ s.se.nt = some e)
    (hr : e.receiver ≠ sender) : openChecks sender sn ct id mac s = .error .nonceNotFound := by
  rw [openChecks_wellFormed hkey ho hsn hgood, he]
  exact if_pos hr

theorem openChecks_found {e : NonceEntry} (hkey : s.se.keyvalid ≠ false) (ho : s.se.ownid = some own)
    (hsn : ¬ sn.length ≠ 8) (hgood : ¬ (mac.length ≠ 8 ∨ ct.length > 255)) (he : ntFind ⟨own, id⟩ s.se.nt = some e)
    (hr : ¬ e.receiver ≠ sender) : openChecks sender sn ct id mac s = .ok (own, e) := by
  rw [openChecks_wellFormed hkey ho hsn hgood, he]
  exact if_neg hr

end

/-- Settles O14: by the checks in their order. -/
theorem seOpenSpendsNonceChecksMac : Obligations.SeOpenSpendsNonceChecksMac := by
  refine fun s sender cmd sn ct id mac => congrArg Host.Outcome.next (show openMessage sender cmd sn ct id mac s = _ from ?_)
  split
  · next hkey => exact openMessage_error (openChecks_noKey hkey) cmd
  · next hkey =>
    split
    · next ho => exact openMessage_error (openChecks_noId hkey ho) cmd
    · next own ho =>
      split
      · next hsn => exact openMessage_error (openChecks_badNonce hkey ho hsn) cmd
      · next hsn =>
        split
        · next hbad => exact openMessage_error (openChecks_badFormat hkey ho hsn hbad) cmd
        · next hgood =>
          split
          · next he => exact openMessage_error (openChecks_notFound hkey ho hsn hgood he) cmd
          · next e he =>
            split
            · next hr => exact openMessage_error (openChecks_otherReceiver hkey ho hsn hgood he hr) cmd
            · next hr => exact openMessage_ok (openChecks_found hkey ho hsn hgood he hr) cmd

/-! ### From one block to the other -/

/-- A nonce that is stored where the issuer had issued none for this node is the one that `SE.SEAL` spends, named or not. -/
theorem sealKey_stored {a b : NodeId} {n : Bytes} {named : Bool} (hn : n.length = 8) {t : NonceTable} {e : NonceEntry}
    (he : e.receiver = a) (honly : named = true ∨ ∀ x ∈ t, ¬ issuedFor b a x) :
    sealKey a b (if named then n.head? else none) (ntPut ⟨b, n.getD 0 0⟩ e t) = some (⟨b, n.getD 0 0⟩, e) := by
  have hfind : ntFind ⟨b, n.getD 0 0⟩ (ntPut ⟨b, n.getD 0 0⟩ e t) = some e := by rw [ntFind_ntPut, if_pos rfl]
  cases named with
  | true => rw [if_pos rfl, head?_eq_getD hn, sealKey_named, hfind]; rfl
  | false =>
    have hnone : ∀ x ∈ t, ¬ issuedFor b a x := honly.resolve_left Bool.false_ne_true
    obtain ⟨x, hx⟩ := Option.ne_none_iff_exists'.mp fun h =>
      (sealKey_none (own := a) (r := b)).1.mp h _ (mem_of_ntFind hfind) ⟨rfl, he⟩
    obtain ⟨hmem, hissued, -⟩ := sealKey_none.2 x hx
    rcases mem_ntPut hmem with rfl | hold
    · exact hx
    · exact absurd hissued (hnone x hold)

theorem nextRandom_length (s : State) : (nextRandom s).length = 8 := by simp [nextRandom]

/-- What was sealed for this block under its two keys with a nonce it stores, it opens to the plaintext: the MAC is the same,
and OFB undoes itself. -/
theorem openMessage_sealed {a b : NodeId} {id : Byte} {e : NonceEntry} {sn p authkey enckey : Bytes} {s : State}
    (hkey : s.se.keyvalid = true) (ho : s.se.ownid = some b) (he : ntFind ⟨b, id⟩ s.se.nt = some e) (hr : e.receiver = a)
    (hauth : s.se.authkey = authkey) (henc : s.se.enckey = enckey) (hauthlen : authkey.length = 16)
    (henclen : enckey.length = 16) (hsn : sn.length = 8) (hp : p.length ≤ 255) (cmd : Byte) :
    let ct := ofb enckey (sn ++ e.nonce) p
    openMessage a cmd sn ct id (macFor authkey sn e.nonce cmd a b ct) s = replied (.bytes p) (dropNonce ⟨b, id⟩ s) := by
  intro ct
  have hmac : (macFor authkey sn e.nonce cmd a b ct).length = 8 := macFor_length hauthlen ..
  have hct : ct.length = p.length := ofb_length _ _ p henclen
  have hchecks : openChecks a sn ct id (macFor authkey sn e.nonce cmd a b ct) s = .ok (b, e) :=
    openChecks_found (by simp [hkey]) ho (by omega) (by omega) he (not_not.mpr hr)
  rw [openMessage_ok hchecks, hauth, henc, if_neg (not_not.mpr rfl), ofb_ofb henclen]

/-- Settles O15: the nonce that B issued and A stored is the one A seals with, and B, which stores it for A, opens what was
sealed. -/
theorem sealOpenRoundTrip : Obligations.SealOpenRoundTrip := by
  intro sa sb a b free cmd p named hkeya hkeyb hauth henc hauthlen henclen hoa hob hinv hroom hp honly
  have hgenerate := generateNonce_of_room Config.host a hob hinv (exists_unusedId hroom)
  have hn := freshNonce_length Config.host b sb
  generalize freshNonce Config.host b sb = n at hgenerate hn
  have hstore := keepNonce_stores hn b a free sa
  have hchosen := sealKey_stored (b := b) (e := ⟨n, a, free, sa.seq⟩) hn rfl honly
  have hseal := sealCommand_ok (s := replied .done (storeNonce b n a free sa)) (sealChecks_found hkeya hoa hp hchosen) cmd
  have hissued := (ntFind_ntPut ⟨b, n.getD 0 0⟩ ⟨b, n.getD 0 0⟩ ⟨n, a, false, sb.seq⟩ sb.se.nt).trans (if_pos rfl)
  have hopen := openMessage_sealed (s := replied (.bytes n) (spend 8 (storeNonce b n a false sb))) hkeyb hob hissued rfl
    hauth.symm henc.symm hauthlen henclen (nextRandom_length (replied .done (storeNonce b n a free sa))) hp cmd
  exact ⟨_, n, _, _, _, _, _, _, _, congrArg Host.Outcome.next hgenerate, rfl, congrArg Host.Outcome.next hstore,
    congrArg Host.Outcome.next hseal, rfl, congrArg Host.Outcome.next hopen, rfl⟩

/-! ### A nonce is used once -/

theorem replied_inj {r r' : Reply} {s u : State} (hu : u.ports.replies = s.ports.replies)
    (h : (replied r u).ports.replies = s.ports.replies ++ [r']) : r = r' := by
  have hone : u.ports.replies ++ [r] = s.ports.replies ++ [r'] := h
  rw [hu] at hone
  exact List.singleton_inj.mp (List.append_cancel_left hone)

theorem ntFind_dropNonce (k : NonceKey) (s : State) : ntFind k (dropNonce k s).se.nt = none :=
  (ntFind_ntDelete k k s.se.nt).trans (if_pos rfl)

/-- Whether or not it was stored, a nonce is not stored after `NT.TAKE`. -/
theorem takeNonce_gone (k : NonceKey) (s : State) : ntFind k (takeNonce k s).se.nt = none := by
  cases h : ntFind k s.se.nt with
  | none => rw [takeNonce_absent h]; exact h
  | some e => rw [takeNonce_stored h]; exact ntFind_dropNonce k s

/-- The nonce id that `SE.SEAL` answers is no longer stored for the receiver. -/
theorem sealCommand_gone {r : NodeId} {cmd id : Byte} {p sn ct mac : Bytes} {n : Option Byte} {s : State}
    (h : (sealCommand Config.host r cmd p n s).ports.replies = s.ports.replies ++ [.sealedParts sn ct id mac]) :
    ntFind ⟨r, id⟩ (sealCommand Config.host r cmd p n s).se.nt = none := by
  cases hk : sealChecks r p n s with
  | error e => rw [sealCommand_error _ hk] at h; nomatch replied_inj rfl h
  | ok x =>
    obtain ⟨own, k, e⟩ := x
    rw [sealCommand_ok hk] at h ⊢
    obtain ⟨-, -, hid, -⟩ := Reply.sealedParts.inj (replied_inj rfl h)
    obtain ⟨-, -, -, hkey⟩ := sealChecks_ok hk
    obtain rfl : k = ⟨r, id⟩ := by rw [← hid, ← sealKey_issuer hkey]
    exact ntFind_dropNonce _ s

/-- No check of `SE.OPEN` answers that the MAC differs: that error comes after the nonce is spent. -/
theorem openChecks_ne_macMismatch (sender : NodeId) (sn ct : Bytes) (id : Byte) (mac : Bytes) (s : State) :
    openChecks sender sn ct id mac s ≠ .error .macMismatch := by
  unfold openChecks
  split
  · exact nofun
  · split
    · exact nofun
    · split
      · exact nofun
      · split
        · exact nofun
        · split
          · exact nofun
          · split
            · exact nofun
            · exact nofun

/-- Once `SE.OPEN` has answered with a plaintext or a mismatch, the nonce is no longer stored. -/
theorem openMessage_gone {own sender : NodeId} {cmd id : Byte} {sn ct mac v : Bytes} {s : State} (ho : s.se.ownid = some own)
    (h : (openMessage sender cmd sn ct id mac s).ports.replies = s.ports.replies ++ [.bytes v] ∨
      (openMessage sender cmd sn ct id mac s).ports.replies = s.ports.replies ++ [.error .macMismatch]) :
    ntFind ⟨own, id⟩ (openMessage sender cmd sn ct id mac s).se.nt = none := by
  cases hk : openChecks sender sn ct id mac s with
  | error e =>
    rw [openMessage_error hk] at h
    rcases h with h | h
    · nomatch replied_inj rfl h
    · cases replied_inj rfl h
      exact (openChecks_ne_macMismatch _ _ _ _ _ _ hk).elim
  | ok x =>
    obtain ⟨own', e⟩ := x
    obtain rfl : own' = own := Option.some.inj ((openChecks_ownid hk).symm.trans ho)
    rw [openMessage_ok hk]
    exact ntFind_dropNonce _ s

/-- Settles O16: each of the three commands deletes the nonce it answers with, and every command looks the nonce up first. -/
theorem nonceSingleUse : Obligations.NonceSingleUse := by
  refine ⟨fun s k v t ht _ => ?take, fun s r cmd p o sn ct id mac t ht hreply => ?sealed,
    fun s own sender cmd sn ct id mac v t ho ht hreply => ?opened, fun s k habsent => ?absent⟩
  case take => cases ht; exact takeNonce_gone k s
  case sealed => cases ht; exact sealCommand_gone hreply
  case opened => cases ht; exact openMessage_gone ho hreply
  case absent =>
    refine ⟨congrArg Host.Outcome.next (takeNonce_absent habsent), congrArg Host.Outcome.next (releaseNonce_absent habsent),
      fun cmd p own hkey ho hp => ?_, fun sender cmd sn ct mac hkey ho hsn hmac hct => ?_⟩
    · have hnone : sealKey own k.issuer (some k.id) s.se.nt = none := by rw [sealKey_named, habsent]; rfl
      exact congrArg Host.Outcome.next (sealCommand_error _ (sealChecks_noNonce hkey ho hp hnone) cmd)
    · have hchecks : openChecks sender sn ct k.id mac s = .error .nonceNotFound :=
        openChecks_notFound (by simp [hkey]) ho (by omega) (by omega) habsent
      exact congrArg Host.Outcome.next (openMessage_error hchecks cmd)

/-! ### The life of a nonce -/

/-- Every nonce stored in `t` was stored in `s`, with the same nonce, receiver and stamp. -/
def Inherits (s t : State) : Prop :=
  ∀ k e, ntFind k t.se.nt = some e → ∃ e', ntFind k s.se.nt = some e' ∧ e = { e' with free := e.free }

/-- From `s` to `t` no nonce is stored and `SEQ` does not count. -/
def Unstamped (s t : State) : Prop := Inherits s t ∧ t.seq = s.seq

/-- Every nonce stored in `t` was stored in `s`, or has been stored from `s` to `t` under a new stamp
(43_nonce_and_security_ops.md R199). -/
def NonceLife (s t : State) : Prop :=
  ∀ k e, ntFind k t.se.nt = some e →
    (∃ e', ntFind k s.se.nt = some e' ∧ e = { e' with free := e.free }) ∨ (e.created = s.seq ∧ t.seq = s.seq + 1)

theorem Inherits.of_nt {s t : State} (h : t.se.nt = s.se.nt) : Inherits s t := fun _ e he => ⟨e, h ▸ he, rfl⟩

theorem Inherits.of_nil {s t : State} (h : t.se.nt = []) : Inherits s t := fun k e he => by rw [h] at he; nomatch he

theorem inherits_dropNonce (k : NonceKey) (s : State) : Inherits s (dropNonce k s) := by
  intro k' e he
  have hfind := (ntFind_ntDelete k k' s.se.nt).symm.trans he
  split at hfind
  · nomatch hfind
  · exact ⟨e, hfind, rfl⟩

theorem inherits_setFree (k : NonceKey) (v : Bool) (s : State) : Inherits s (setNt (ntSetFree k v s.se.nt) s) := by
  intro k' e he
  have hfind := (ntFind_ntSetFree k k' v s.se.nt).symm.trans he
  split at hfind
  · next hk =>
    obtain ⟨e', he', rfl⟩ := Option.map_eq_some_iff.mp hfind
    exact ⟨e', hk ▸ he', rfl⟩
  · exact ⟨e, hfind, rfl⟩

theorem Inherits.life {s t : State} (h : Inherits s t) : NonceLife s t := fun k e he => .inl (h k e he)

theorem NonceLife.of_nt {s t : State} (h : t.se.nt = s.se.nt) : NonceLife s t := (Inherits.of_nt h).life

theorem Unstamped.life {s t : State} (h : Unstamped s t) : NonceLife s t := h.1.life

/-- Writes of neither the nonce table nor `SEQ`. -/
theorem Unstamped.of_frame {s t : State} (hnt : t.se.nt = s.se.nt) (hseq : t.seq = s.seq) : Unstamped s t :=
  ⟨.of_nt hnt, hseq⟩

theorem Unstamped.refl (s : State) : Unstamped s s := .of_frame rfl rfl

theorem Unstamped.trans {s t u : State} (h : Unstamped s t) (h' : Unstamped t u) : Unstamped s u := by
  refine ⟨fun k e he => ?_, h'.2.trans h.2⟩
  obtain ⟨e1, he1, heq⟩ := h'.1 k e he
  obtain ⟨e0, he0, heq1⟩ := h.1 k e1 he1
  exact ⟨e0, he0, by rw [heq, heq1]⟩

/-- A procedure that stores no nonce may follow one that stored one. -/
theorem NonceLife.trans {s t u : State} (h : NonceLife s t) (h' : Unstamped t u) : NonceLife s u := by
  intro k e he
  obtain ⟨e1, he1, heq⟩ := h'.1 k e he
  rcases h k e1 he1 with ⟨e0, he0, heq1⟩ | ⟨hstamp, hseq⟩
  · exact .inl ⟨e0, he0, by rw [heq, heq1]⟩
  · exact .inr ⟨by rw [heq]; exact hstamp, h'.2.trans hseq⟩

theorem nonceLife_storeNonce (issuer : NodeId) (nonce : Bytes) (receiver : NodeId) (free : Bool) (s : State) :
    NonceLife s (storeNonce issuer nonce receiver free s) := by
  intro k e he
  have hfind := (ntFind_ntPut _ k _ s.se.nt).symm.trans he
  split at hfind
  · cases hfind
    exact .inr ⟨rfl, rfl⟩
  · exact .inl ⟨e, hfind, rfl⟩

/-! #### The procedures of the transaction machine -/

theorem unstamped_finalize (o : TxnOutcome) (s : State) : Unstamped s (finalize o s) := by
  cases hc : s.tm.cur with
  | none => rw [finalize_none hc]; exact .refl s
  | some c => rw [finalize_eq hc]; exact .of_frame rfl rfl

theorem unstamped_fail (e : ErrCode) (s : State) : Unstamped s (fail e s) := by
  cases hc : s.tm.cur with
  | none => rw [fail_none hc]; exact .refl s
  | some c =>
    rw [fail_eq hc, failedWith]
    split
    · exact .of_frame rfl rfl
    · exact .of_frame rfl rfl

theorem unstamped_enterHandshake (s : State) : Unstamped s (enterHandshake s) := by
  unfold enterHandshake
  split
  · exact .refl s
  · split
    · exact .refl s
    · split
      · exact .of_frame rfl rfl
      · exact unstamped_finalize _ (setSt .handshake s)

/-- Sealing deletes one nonce, or leaves the state as it is. -/
theorem unstamped_sealMessage (cfg : Config) (r : NodeId) (i : Byte) (p : Bytes) (n : Option Byte) (s : State) :
    Unstamped s (sealMessage cfg r i p n s).1 := by
  unfold sealMessage
  split
  · exact .refl s
  · next k _ _ => exact ⟨inherits_dropNonce _ s, rfl⟩

theorem unstamped_materialize (cfg : Config) (t : Txn) (s : State) : Unstamped s (materialize cfg t s).1 := by
  unfold materialize
  split
  · exact .refl s
  · split
    · exact .refl s
    · next n _ =>
      have hseal := unstamped_sealMessage cfg n t.secCmd t.secPlain none s
      revert hseal
      rcases sealMessage cfg n t.secCmd t.secPlain none s with ⟨s', e | p⟩
      · exact id
      · dsimp only
        split
        · exact id
        · exact id

theorem unstamped_buildError (e : ErrCode) (t : Txn) (s : State) : Unstamped s (buildError e t s) := by
  unfold buildError
  split
  · exact unstamped_fail _ s
  · exact unstamped_finalize _ s

theorem unstamped_sendBuilt (t : Txn) (p : Bytes) (s : State) : Unstamped s (sendBuilt t p s) := by
  unfold sendBuilt
  split
  · exact .of_frame rfl rfl
  · exact unstamped_buildError _ t s

theorem unstamped_enterExecute (cfg : Config) (s : State) : Unstamped s (enterExecute cfg s) := by
  unfold enterExecute
  split
  · exact .refl s
  · next t _ =>
    split
    · exact .of_frame rfl rfl
    · have hbuild : Unstamped s (materialize cfg t (setSt .execute s)).1 := unstamped_materialize cfg t (setSt .execute s)
      revert hbuild
      rcases materialize cfg t (setSt .execute s) with ⟨s', e | p⟩
      · exact fun hbuild => hbuild.trans (unstamped_buildError e t s')
      · exact fun hbuild => hbuild.trans (unstamped_sendBuilt t p s')

/-- The one procedure that stores a nonce: that of a handshake reply (44_transaction_fsm.md R262). -/
theorem nonceLife_storeReplyNonce (cfg : Config) (r : Option Message) (s : State) :
    NonceLife s (storeReplyNonce cfg r s) := by
  unfold storeReplyNonce
  split
  · exact nonceLife_storeNonce _ _ _ false s
  · exact .of_nt rfl

theorem nonceLife_primitiveSuccess (cfg : Config) (r : Option Message) (s : State) :
    NonceLife s (primitiveSuccess cfg r s) := by
  unfold primitiveSuccess
  split
  · have hstore : NonceLife s (storeReplyNonce cfg r (latchReply r (endPrimitive s))) :=
      nonceLife_storeReplyNonce cfg r (latchReply r (endPrimitive s))
    exact hstore.trans (unstamped_enterExecute cfg _)
  · unfold executeSuccess
    split
    · exact .of_nt rfl
    · split
      · exact .of_nt rfl
      · exact (unstamped_finalize _ (endPrimitive s)).life
  · exact .of_nt rfl
  · exact .of_nt rfl
  · exact .of_nt rfl

theorem nonceLife_linkAck (cfg : Config) (s : State) : NonceLife s (linkAck cfg s) := by
  unfold linkAck
  split
  · split
    · exact nonceLife_primitiveSuccess cfg none s
    · exact .of_nt rfl
  · exact .of_nt rfl

theorem unstamped_linkNak (s : State) : Unstamped s (linkNak s) := by
  unfold linkNak
  split
  · exact unstamped_fail _ s
  · exact .refl s

theorem unstamped_linkCan (s : State) : Unstamped s (linkCan s) := by
  unfold linkCan
  split
  · exact unstamped_fail _ s
  · exact .refl s

theorem nonceLife_msgInReply (cfg : Config) (m : Message) (s : State) : NonceLife s (msgInReply cfg m s) := by
  unfold msgInReply
  split
  · exact nonceLife_primitiveSuccess cfg _ s
  · exact .of_nt rfl
  · exact (unstamped_fail _ s).life
  · exact .of_nt rfl

theorem unstamped_msgInUpdate (cfg : Config) (m : Message) (s : State) : Unstamped s (msgInUpdate cfg m s) := by
  unfold msgInUpdate
  split
  · exact .refl s
  · split
    · exact unstamped_finalize _ s
    · exact .refl s

theorem nonceLife_msg (cfg : Config) (m : Message) (s : State) : NonceLife s (msg cfg m s) := by
  unfold msg
  split
  · split
    · exact nonceLife_msgInReply cfg m s
    · exact .of_nt rfl
  · split
    · exact nonceLife_msgInReply cfg m s
    · exact .of_nt rfl
  · exact (unstamped_msgInUpdate cfg m s).life
  · exact .of_nt rfl
  · exact .of_nt rfl

/-- One symbol of the line stores at most one nonce: that of the reply it carries. -/
theorem nonceLife_handleOutcome (cfg : Config) (o : ParseOutcome) (s : State) : NonceLife s (handleOutcome cfg o s) := by
  match o with
  | .incomplete => exact .of_nt rfl
  | .skip n => exact .of_nt rfl
  | .frame .ack n => exact nonceLife_linkAck cfg (consume n s)
  | .frame .nak n => exact (unstamped_linkNak (consume n s)).life
  | .frame .can n => exact (unstamped_linkCan (consume n s)).life
  | .frame (.data d) n =>
    simp only [handleOutcome, dispatchData]
    split
    · exact nonceLife_msg cfg _ (acceptFrame n s)
    · exact .of_nt rfl
  | .invalid .checksum n => exact .of_nt rfl
  | .invalid .length n => exact .of_nt rfl

/-! #### The commands -/

theorem nonceLife_sealCommand (c : Config) (r : NodeId) (cmd : Byte) (p : Bytes) (n : Option Byte) (s : State) :
    NonceLife s (sealCommand c r cmd p n s) := by
  have hseal := unstamped_sealMessage c r cmd p n s
  unfold sealCommand
  revert hseal
  rcases sealMessage c r cmd p n s with ⟨s', e | x⟩
  · exact fun hseal => hseal.life
  · exact fun hseal => hseal.life

theorem nonceLife_openMessage (sender : NodeId) (cmd : Byte) (sn ct : Bytes) (id : Byte) (mac : Bytes) (s : State) :
    NonceLife s (openMessage sender cmd sn ct id mac s) := by
  cases hk : openChecks sender sn ct id mac s with
  | error e => rw [openMessage_error hk]; exact .of_nt rfl
  | ok x => rw [openMessage_ok hk]; exact (inherits_dropNonce _ s).life

theorem nonceLife_generateNonce (c : Config) (forNode : NodeId) (s : State) :
    NonceLife s (generateNonce c forNode s) := by
  cases ho : s.se.ownid with
  | none => rw [generateNonce_noId c forNode ho]; exact .of_nt rfl
  | some own =>
    by_cases hfull : (usedIds own s.se.nt).length = 256
    · rw [generateNonce_full c forNode ho hfull]; exact .of_nt rfl
    · rw [generateNonce_stores c forNode ho hfull]; exact nonceLife_storeNonce own _ forNode false s

theorem nonceLife_keepNonce (issuer : NodeId) (nonce : Bytes) (receiver : NodeId) (free : Bool) (s : State) :
    NonceLife s (keepNonce issuer nonce receiver free s) := by
  by_cases hlen : nonce.length = 8
  · rw [keepNonce_stores hlen]; exact nonceLife_storeNonce issuer nonce receiver free s
  · rw [keepNonce_badLength hlen]; exact .of_nt rfl

theorem nonceLife_findFree (issuer : NodeId) (s : State) : NonceLife s (findFree issuer s) := by
  cases hold : ntOldest (ntFreeOf issuer s.se.nt) with
  | none => rw [findFree_none (ntOldest_isNone.mp hold)]; exact .of_nt rfl
  | some x => rw [findFree_some hold]; exact (inherits_setFree x.1 false s).life

theorem nonceLife_releaseNonce (k : NonceKey) (s : State) : NonceLife s (releaseNonce k s) := by
  cases h : ntFind k s.se.nt with
  | none => rw [releaseNonce_absent h]; exact .of_nt rfl
  | some e => rw [releaseNonce_stored h]; exact (inherits_setFree k true s).life

theorem nonceLife_takeNonce (k : NonceKey) (s : State) : NonceLife s (takeNonce k s) := by
  cases h : ntFind k s.se.nt with
  | none => rw [takeNonce_absent h]; exact .of_nt rfl
  | some e => rw [takeNonce_stored h]; exact (inherits_dropNonce k s).life

/-! #### The steps and the commands of TM -/

theorem unstamped_dispatchTxn (c : Config) (t : Txn) (s : State) : Unstamped s (dispatchTxn c t s) := by
  unfold dispatchTxn
  split
  · exact unstamped_enterHandshake (makeCurrent t s)
  · exact unstamped_enterExecute c (makeCurrent t s)

theorem unstamped_retryAttempt (c : Config) (s : State) : Unstamped s (retryAttempt c s) := by
  unfold retryAttempt
  split
  · exact unstamped_enterHandshake (disarm s)
  · exact unstamped_enterExecute c (disarm s)

theorem unstamped_reportAll (o : TxnOutcome) (ts : List Txn) (s : State) : Unstamped s (reportAll o ts s) := by
  rw [reportAll_eq]
  exact .of_frame rfl rfl

theorem unstamped_purge (p : Txn → Bool) (o : TxnOutcome) (s : State) : Unstamped s (purge p o s) := by
  have hqueue : Unstamped s (purgeQueue p o s) := unstamped_reportAll o _ (setQ _ s)
  unfold purge
  split
  · exact hqueue.trans (unstamped_finalize o _)
  · exact hqueue

theorem unstamped_sleepQueue (c : Config) (n : NodeId) (s : State) : Unstamped s (sleepQueue c n s) :=
  unstamped_reportAll _ _ (choose (setQ _ s))

theorem unstamped_sleepCurrent (n : NodeId) (s : State) : Unstamped s (sleepCurrent n s) := by
  unfold sleepCurrent
  split
  · exact .refl s
  · split
    · split
      · exact unstamped_finalize _ s
      · exact .of_frame rfl rfl
    · exact .refl s

/-! #### Every instruction -/

theorem setKey_nt (key : Bytes) (s : State) : (setKey key s).se.nt = s.se.nt := by
  rcases setKey_cases key s with ⟨e, he⟩ | ⟨-, -, he⟩
  · rw [he]; rfl
  · rw [he]; rfl

theorem addTxn_nt (t : TxnSpec) (s : State) : (addTxn t s).se.nt = s.se.nt := by
  unfold addTxn
  split
  · rfl
  · rfl

/-- A byte completes at most one symbol between steps, so it stores at most one nonce. -/
theorem nonceLife_receiveByte (c : Config) (b : Byte) {s : State} (hs : FcInv s) : NonceLife s (receiveByte c b s) := by
  rw [receiveByte_eq c b hs]
  exact nonceLife_handleOutcome c _ (receive b s)

theorem nonceLife_exec (i : Instr) {s : State} (hs : FcInv s) : Leaves (NonceLife s) (exec i s) := by
  cases i with
  | ack => exact leaves_next (nonceLife_linkAck _ (consume 1 s))
  | nak => exact leaves_next (unstamped_linkNak (consume 1 s)).life
  | can => exact leaves_next (unstamped_linkCan (consume 1 s)).life
  | dataBadlen len _ => exact leaves_next (.of_nt rfl)
  | dataCsfail len _ => exact leaves_next (.of_nt rfl)
  | dataReq funcId payload => exact leaves_next (nonceLife_msg _ _ (acceptFrame _ s))
  | dataRes funcId payload => exact leaves_next (nonceLife_msg _ _ (acceptFrame _ s))
  | dataOther type funcId payload => exact leaves_next (.of_nt rfl)
  | skip _ => exact leaves_next (.of_nt rfl)
  | dataEncode type funcId payload =>
    refine leaves_next ?_
    cases serialize type funcId payload with
    | ok f => exact .of_nt rfl
    | error e => exact .of_nt rfl
  | rxByte b => exact leaves_next (nonceLife_receiveByte _ b hs)
  | txEmit => exact leaves_txEmit fun b rest _ => .of_nt rfl
  | tmDispatch =>
    simp only [exec, execTmDispatch]
    split
    · split
      · exact leaves_fault _
      · exact leaves_next (unstamped_dispatchTxn ..).life
    · exact leaves_fault _
  | tmTimeoutAck => exact leaves_ite (unstamped_fail _ s).life
  | tmTimeoutResp => exact leaves_ite (unstamped_fail _ s).life
  | tmTimeoutUpd => exact leaves_ite (unstamped_fail _ s).life
  | tmTimeoutRetry => exact leaves_ite (unstamped_retryAttempt _ s).life
  | rxTimeout => exact leaves_ite (.of_nt rfl)
  | ntExpire issuer id => exact leaves_ite (inherits_dropNonce _ s).life
  | sysReset => exact leaves_next (Inherits.of_nil rfl).life
  | sysDestroy => exact leaves_next (unstamped_purge _ _ s).life
  | sysSetid id => exact leaves_next (.of_nt rfl)
  | sysStatus => exact leaves_next (.of_nt rfl)
  | seSetkey key => exact leaves_next (.of_nt (setKey_nt key s))
  | seEncrypt p sn rn => exact leaves_next (.of_nt (by rw [crypt_eq]; rfl))
  | seDecrypt c sn rn => exact leaves_next (.of_nt (by rw [crypt_eq]; rfl))
  | seMac sn rn cmd a b ct => exact leaves_next (.of_nt (by rw [computeMac_eq]; rfl))
  | seVerify sn rn cmd a b ct mac => exact leaves_next (.of_nt (by rw [verifyMac_eq]; rfl))
  | seSeal r cmd p n => exact leaves_next (nonceLife_sealCommand _ r cmd p n s)
  | seOpen sender cmd sn ct id mac => exact leaves_next (nonceLife_openMessage sender cmd sn ct id mac s)
  | ntGenerate n => exact leaves_next (nonceLife_generateNonce _ n s)
  | ntStore issuer n r free => exact leaves_next (nonceLife_keepNonce issuer n r free s)
  | ntFindfree issuer => exact leaves_next (nonceLife_findFree issuer s)
  | ntRelease issuer id => exact leaves_next (nonceLife_releaseNonce _ s)
  | ntTake issuer id => exact leaves_next (nonceLife_takeNonce _ s)
  | tmAdd t => exact leaves_next (.of_nt (addTxn_nt t s))
  | tmReject p reason => exact leaves_next (unstamped_purge _ _ s).life
  | tmNodeAsleep n => exact leaves_next ((unstamped_sleepQueue _ n s).trans (unstamped_sleepCurrent n _)).life

/-- Settles O17: by what each instruction does to the table; one that stores a nonce stores only one, under the value of
`SEQ`. -/
theorem nonceLifecycle : Obligations.NonceLifecycle := fun i _ t hs h => nonceLife_exec i hs t h

end Sys2Proof.Machine

/-! SUPPORT. The transaction machine (spec/44_transaction_fsm.md R242 to R279): what its timers, its dispatch and its commands
leave, that every step keeps its invariants, and that no transaction is lost or settled twice. -/

namespace Sys2Proof.Machine

/-! ### Received Messages that TM takes -/

/-- A cause other than a missing nonce sets `HSF` exactly in `handshake` (44_transaction_fsm.md R266). -/
theorem fail_eq_failedWith {s : State} {c : Txn} {cause : ErrCode} (hc : s.tm.cur = some c) (hn : cause ≠ .noNonce) :
    fail cause s = failedWith c (decide (s.tm.st = .handshake)) cause s := by
  rw [fail_eq hc, hsfOf_ne hn]

/-- There is an active message in `handshake` and in `execute` only (44_transaction_fsm.md R240). -/
theorem st_of_activeExpect {r : TmRegs} (h : activeExpect r ≠ none) : r.st = .handshake ∨ r.st = .execute := by
  unfold activeExpect active at h
  split at h
  · next hst _ => exact .inl hst
  · next hst _ => exact .inr hst
  · exact absurd rfl h

theorem msg_waitReply (cfg : Config) (m : Message) {s : State} (hph : s.tm.ph = .waitReply)
    (hst : s.tm.st = .handshake ∨ s.tm.st = .execute) : msg cfg m s = msgInReply cfg m s := by
  unfold msg
  rcases hst with hst | hst
  · simp only [hst, if_pos hph]
  · simp only [hst, if_pos hph]

theorem msg_waitForUpdate (cfg : Config) (m : Message) {s : State} (hst : s.tm.st = .waitForUpdate) :
    msg cfg m s = msgInUpdate cfg m s := by
  simp only [msg, hst]

theorem msgInUpdate_eq (cfg : Config) (m : Message) {s : State} {c : Txn} (hc : s.tm.cur = some c) :
    msgInUpdate cfg m s = if cfg.isUpdate c m then settledWith c (.success (some m)) s else unsolicited m s := by
  simp only [msgInUpdate, hc, finalize_eq hc]
  rfl

theorem verdictOf_eq (cfg : Config) (m : Message) {r : TmRegs} {p : PredId} (h : activeExpect r = some p) :
    verdictOf cfg r m = cfg.expect p m := by
  simp only [verdictOf, h]

/-- Settles O39: by the verdict of the active message's predicate. -/
theorem messageInReply : Obligations.MessageInReply := by
  intro s response funcId payload c p hph hc he m s1
  have hst : s.tm.st = .handshake ∨ s.tm.st = .execute := st_of_activeExpect (by rw [he]; exact Option.some_ne_none p)
  refine ⟨msgInReply Config.host m s1, ?_, ?_⟩
  · rw [exec_messageInstr, msg_waitReply (s := s1) _ _ hph hst]
  · have hv : verdictOf Config.host s1.tm m = Config.host.expect p m := verdictOf_eq _ _ he
    unfold msgInReply
    rw [hv]
    cases Config.host.expect p m with
    | final =>
      exact ⟨fun hx => primitiveSuccess_executed (s := s1) _ hx hc _,
        fun hh => primitiveSuccess_handshaken (s := s1) hh hc _⟩
    | confirmation => rfl
    | fatal => exact fail_eq_failedWith (s := s1) hc (by decide)
    | unrelated => rfl

/-- Settles O40: by whether the Message is the update. -/
theorem messageInUpdate : Obligations.MessageInUpdate := by
  intro s response funcId payload c hst hc m
  rw [exec_messageInstr, msg_waitForUpdate (s := acknowledged payload s) _ _ hst,
    msgInUpdate_eq (s := acknowledged payload s) _ _ hc]

/-! ### The timers and the dispatch -/

/-- Settles O41: each expiry is the retry policy with its own cause. -/
theorem tmTimeoutsFailTheAttempt : Obligations.TmTimeoutsFailTheAttempt := by
  have hrun {p : Prop} [Decidable p] {t u : State} {f : Fault} (h : p) (ht : t = u) :
      (if p then .next t else .fault f : Result) = .next u := by rw [if_pos h, ht]
  refine fun s => ⟨fun h => if_neg h, fun h => if_neg h, fun h => if_neg h, fun c hc => ⟨fun h => ?_, fun h => ?_, fun h => ?_⟩⟩
  · exact hrun h (fail_eq_failedWith hc (by decide))
  · exact hrun h (fail_eq_failedWith hc (by decide))
  · exact hrun h (fail_eq_failedWith hc (by decide))

theorem execTmTimeoutRetry_armed {s : State} (h : s.tm.tmr = .retry) :
    exec .tmTimeoutRetry s = .next (retryAttempt Config.host s) := if_pos h

/-- Settles O42: by `HSF`; what follows arms or clears the timer itself. -/
theorem tmTimeoutRetryStartsAgain : Obligations.TmTimeoutRetryStartsAgain := by
  refine fun s => ⟨fun h => if_neg h, fun c h hc => ⟨fun m hf hm hl => ?_, fun hf => ⟨_, execTmTimeoutRetry_armed h, ?_⟩⟩⟩
  · rw [execTmTimeoutRetry_armed h, retryAttempt, if_pos hf, enterHandshake_eq (s := disarm s) hc hm hl]
    rfl
  · rw [retryAttempt, if_neg (by rw [hf]; decide)]
    exact enterExecute_spec (s := disarm s) hc

/-- Only a transaction with a handshake message needs a handshake (44_transaction_fsm.md R250; log entry 9). -/
theorem hsMsg_of_needHS {cfg : Config} {t : Txn} {nt : NonceTable} (h : needHS cfg t nt = true) :
    ∃ m, t.hsMsg = some m := by
  refine Option.isSome_iff_exists.mp ?_
  unfold needHS needHSDefault at h
  split at h
  · simp only [Bool.and_eq_true] at h
    obtain ⟨⟨-, hmsg⟩, -⟩ := h
    exact hmsg
  · exact (Bool.and_eq_true_iff.mp h).2

theorem makeCurrent_eq_taken (t : Txn) (s : State) : makeCurrent t s = taken t s := rfl

theorem execTmDispatch_takes {s : State} {c : Txn} (hst : s.tm.st = .idle) (hl : s.tm.life = .ready)
    (hn : nextTxn s = some c) : exec .tmDispatch s = .next (dispatchTxn Config.host c s) := by
  simp only [exec, execTmDispatch, hst, hl, hn, and_self, if_true]

theorem execTmDispatch_stuck {s : State} (h : s.tm.st ≠ .idle ∨ s.tm.life ≠ .ready ∨ ∀ x ∈ s.tm.q, ¬ awake s.pins x) :
    exec .tmDispatch s = .fault .dispatchNotEnabled := by
  simp only [exec, execTmDispatch]
  split
  · next hidle =>
    have hnone : nextTxn s = none := nextTxn_eq_none_iff_awake.mpr ((h.resolve_left (not_not.mpr hidle.1)).resolve_left
      (not_not.mpr hidle.2))
    rw [hnone]
  · rfl

/-- Settles O43: `nextTxn` is a least eligible transaction, and `needHS` chooses between the two primitives. -/
theorem tmDispatchTakesLeast : Obligations.TmDispatchTakesLeast := by
  refine fun s => ⟨execTmDispatch_stuck, fun hst hl ⟨x, hx, hax⟩ => ?_⟩
  obtain ⟨c, hn⟩ := Option.ne_none_iff_exists'.mp fun hnone => nextTxn_eq_none_iff_awake.mp hnone x hx hax
  obtain ⟨hq, he, hleast⟩ := nextTxn_spec hn
  refine ⟨c, _, hq, isEligible_iff.mp he, fun y hy hay => hleast y hy (isEligible_iff.mpr hay),
    execTmDispatch_takes hst hl hn, fun hneed => ?_, fun hneed => ?_⟩
  · obtain ⟨h, hh⟩ := hsMsg_of_needHS hneed
    refine ⟨h, hh, fun hlen => ?_⟩
    rw [dispatchTxn, if_pos hneed, makeCurrent_eq_taken, enterHandshake_eq rfl hh hlen]
  · rw [dispatchTxn, if_neg (by rw [hneed]; decide), makeCurrent_eq_taken]
    exact enterExecute_spec rfl

theorem hasNonce_eq_false {n : NodeId} {nt : NonceTable} :
    hasNonce n nt = false ↔ ∀ x ∈ nt, x.1.issuer = n → x.2.free = false := by
  simp [hasNonce, ntFreeOf_eq_nil]

/-- Settles O48: by the node of the transaction. -/
theorem needHandshakeDefault : Obligations.NeedHandshakeDefault := by
  intro cfg t nt hcfg
  have hdef : needHS cfg t nt = needHSDefault t nt := by simp only [needHS, hcfg]
  rw [hdef, needHSDefault]
  cases t.node with
  | none => simp
  | some n => simp [hasNonce_eq_false, and_assoc, Option.isSome_iff_ne_none]

/-! ### `TM.ADD` -/

theorem specAttempts_eq_zero {t : TxnSpec} : specAttempts t = 0 ↔ t.maxAttempts = some 0 := by
  unfold specAttempts
  cases t.maxAttempts with
  | none => simp [Config.maxAttemptsDefault]
  | some n => simp

theorem tooLong_iff {m : Message} : tooLong m = true ↔ m.payload.length > 252 := decide_eq_true_iff

/-- The operand of `TM.ADD` is refused with `ERR_PRECONDITION` (44_transaction_fsm.md R248). -/
theorem addPrecondition_iff {t : TxnSpec} {r : TmRegs} :
    (specAttempts t = 0 ∨ tooLong t.msg ∨ t.hsMsg.any tooLong ∨ idInUse t.id r) ↔
      (t.maxAttempts = some 0 ∨ t.msg.payload.length > 252 ∨ (∃ h ∈ t.hsMsg, h.payload.length > 252) ∨
        t.id ∈ unsettledIds r) := by
  rw [specAttempts_eq_zero, tooLong_iff, idInUse_iff, Option.any_eq_true]
  simp only [tooLong_iff, Option.mem_def]

/-- Settles O44: the record is put into the queue by `qInsert`. -/
theorem tmAddQueuesPending : Obligations.TmAddQueuesPending := by
  intro s t0
  refine ⟨qInsert (txnOfSpec t0 s.seq) s.tm.q, qInsert_perm _ _, ?_⟩
  simp only [exec, execTmAdd, addTxn, addError, addPrecondition_iff]
  split_ifs <;> rfl

/-! ### `TM.REJECT` -/

/-- The queued transactions that satisfy `p` leave the queue and are reported in `Compare` order (44_transaction_fsm.md
R272). -/
theorem purgeQueue_eq (p : Txn → Bool) (o : TxnOutcome) (s : State) :
    purgeQueue p o s = { s with
      tm.q := s.tm.q.filter fun t => !p t,
      ports.events := s.ports.events ++ (inOrder s.pins (s.tm.q.filter p)).map fun t => Event.txnDone t.id o } := by
  rw [purgeQueue, reportAll_eq]
  rfl

/-- What a purge leaves: the matching transactions, the current one last, are gone and reported. -/
theorem purge_eq (p : Txn → Bool) (o : TxnOutcome) (s : State) :
    purge p o s = { s with
      tm := { (if (s.tm.cur.filter p).isSome then idleRegs s.tm else s.tm) with q := s.tm.q.filter fun t => !p t },
      ports.events := s.ports.events ++
        (inOrder s.pins (s.tm.q.filter p) ++ (s.tm.cur.filter p).toList).map fun t => Event.txnDone t.id o } := by
  have hcur : (purgeQueue p o s).tm.cur = s.tm.cur := by rw [purgeQueue_eq]
  rw [purge, curMatches]
  cases hc : s.tm.cur with
  | none => rw [purgeQueue_eq]; simp
  | some c =>
    rw [Option.any_some]
    cases hp : p c with
    | false => rw [purgeQueue_eq]; simp [hp]
    | true =>
      rw [if_pos rfl, finalize_eq (hcur.trans hc), purgeQueue_eq, Option.filter_some_eq_some.mpr hp]
      simp [settledWith, idleRegs]

theorem predHolds_eq_rejects (p : TxnPred) : predHolds Config.host p = rejects p := by
  funext t
  cases p <;> rfl

theorem purgeCount_eq (p : Txn → Bool) (s : State) :
    purgeCount p s = (inOrder s.pins (s.tm.q.filter p)).length + (s.tm.cur.filter p).toList.length := by
  rw [purgeCount, curMatches, (inOrder_perm ..).length_eq]
  cases s.tm.cur with
  | none => rfl
  | some c => cases hp : p c <;> simp [hp, Option.filter]

/-- Settles O45: a purge of the transactions that match, and their number. -/
theorem tmRejectSettlesMatching : Obligations.TmRejectSettlesMatching := by
  intro s p reason
  refine ⟨_, inOrder_comparedList s.pins _, ?_⟩
  simp only [exec, execTmReject, rejectTxns, predHolds_eq_rejects, purge_eq, purgeCount_eq]
  rfl

/-! ### `TM.NODE_ASLEEP` -/

theorem fallsAsleep_eq_touched (n : NodeId) : fallsAsleep n = touchedBySleep n := rfl

theorem sleepQueue_eq (cfg : Config) (n : NodeId) (s : State) :
    sleepQueue cfg n s = { s with
      tm.q := (s.tm.q.filter fun t => !droppedPing n t).map (retagQueued n),
      ports.events := s.ports.events ++ (inFreeOrder cfg s.ports.choices (s.tm.q.filter (droppedPing n))).map
        fun t => Event.txnDone t.id (.failure .dropped none),
      ports.choices := s.ports.choices + 1 } := by
  rw [sleepQueue, reportAll_eq]
  rfl

/-- What falling asleep does to the current transaction: nothing unless it is touched; a ping is settled, any other goes back
to the queue (44_transaction_fsm.md R274). -/
theorem sleepCurrent_cases (n : NodeId) (s : State) :
    (s.tm.cur.filter (touchedBySleep n) = none ∧ sleepCurrent n s = s) ∨
    ∃ c, s.tm.cur = some c ∧ touchedBySleep n c = true ∧
      ((c.isPing = true ∧ sleepCurrent n s = settledWith c (.failure .dropped none) s) ∨
       (c.isPing = false ∧ sleepCurrent n s = requeue c s)) := by
  unfold sleepCurrent
  cases hc : s.tm.cur with
  | none => exact .inl ⟨rfl, rfl⟩
  | some c =>
    dsimp only
    rw [fallsAsleep_eq_touched]
    by_cases ht : touchedBySleep n c = true
    · refine .inr ⟨c, rfl, ht, ?_⟩
      rw [if_pos ht]
      cases c.isPing with
      | true => exact .inl ⟨rfl, finalize_eq hc _⟩
      | false => exact .inr ⟨rfl, rfl⟩
    · exact .inl ⟨Option.filter_some_eq_none.mpr ht, if_neg ht⟩

/-- Settles O46: the queue first, then the current transaction. -/
theorem tmNodeAsleepRetagsOrDrops : Obligations.TmNodeAsleepRetagsOrDrops := by
  intro s n
  have hl := inFreeOrder_perm Config.host s.ports.choices (s.tm.q.filter (droppedPing n))
  have hcur : (sleepQueue Config.host n s).tm.cur = s.tm.cur := by rw [sleepQueue_eq]
  have hq : (sleepQueue Config.host n s).tm.q =
      (s.tm.q.filter fun t => !droppedPing n t).map (retagQueued n) := by rw [sleepQueue_eq]
  have hexec : exec (.tmNodeAsleep n) s =
      .next (answer .done (sleepCurrent n (sleepQueue Config.host n s))) := rfl
  rw [hexec]
  rcases sleepCurrent_cases n (sleepQueue Config.host n s) with
    ⟨hnone, he⟩ | ⟨c, hc, ht, ⟨hping, he⟩ | ⟨hping, he⟩⟩
  · rw [hcur] at hnone
    refine ⟨_, (sleepQueue Config.host n s).tm.q, hl, ?_, ?_⟩
    · rw [hnone, hq]; exact .refl _
    · rw [hnone, he, sleepQueue_eq]; simp [answer]
  · rw [hcur] at hc
    have htouched : s.tm.cur.filter (touchedBySleep n) = some c := by rw [hc, Option.filter_some_eq_some.mpr ht]
    refine ⟨_, (sleepQueue Config.host n s).tm.q, hl, ?_, ?_⟩
    · simp only [htouched, Option.filter_some, hping, hq]; exact .refl _
    · rw [he, sleepQueue_eq, htouched]; simp [answer, settledWith, idleRegs, Option.filter_some, hping]
  · rw [hcur] at hc
    have htouched : s.tm.cur.filter (touchedBySleep n) = some c := by rw [hc, Option.filter_some_eq_some.mpr ht]
    refine ⟨_, qInsert (retag c) (sleepQueue Config.host n s).tm.q, hl, ?_, ?_⟩
    · simp only [htouched, Option.filter_some, hping, hq]; exact qInsert_perm _ _
    · rw [he, sleepQueue_eq, htouched]; simp [answer, requeue, toIdle, setQ, idleRegs, hping]

end Sys2Proof.Machine

/-! SUPPORT. What every step keeps of the transaction machine (spec/44_transaction_fsm.md R242, R270, R279): the instructions
that do not reach it are set apart once; the others keep its invariants, and conserve the ids of its transactions. -/

namespace Sys2Proof.Machine

/-! ### Instructions that do not reach the transaction machine -/

/-- From `s` to `t` the transaction machine was not reached: its registers are as they were, `SEQ` has not counted down, and
no event reports a transaction as settled. -/
structure TmKept (s t : State) : Prop where
  tm : t.tm = s.tm
  seq : s.seq ≤ t.seq
  events : ∃ l, t.ports.events = s.ports.events ++ l ∧ doneIds l = []

/-- Writes that emit nothing. -/
theorem TmKept.of_silent {s t : State} (htm : t.tm = s.tm) (hseq : s.seq ≤ t.seq)
    (hevents : t.ports.events = s.ports.events) : TmKept s t :=
  ⟨htm, hseq, [], by rw [hevents, List.append_nil], rfl⟩

theorem TmKept.answer {s t : State} (h : TmKept s t) (r : Reply) : TmKept s (answer r t) := ⟨h.tm, h.seq, h.events⟩

theorem tmKept_emit {e : Event} (he : doneIds [e] = []) (s : State) : TmKept s (emit e s) := ⟨rfl, le_rfl, [e], rfl, he⟩

theorem tmKept_answer (r : Reply) (s : State) : TmKept s (answer r s) := .of_silent rfl le_rfl rfl

theorem tmKept_raise (e : ErrCode) (s : State) : TmKept s (raise e s) := tmKept_answer (.error e) s

theorem tmKept_setNt (nt : NonceTable) (s : State) : TmKept s (setNt nt s) := .of_silent rfl le_rfl rfl

theorem tmKept_storeNonce (issuer : NodeId) (nonce : Bytes) (receiver : NodeId) (free : Bool) (s : State) :
    TmKept s (storeNonce issuer nonce receiver free s) := .of_silent rfl (Nat.le_succ _) rfl

theorem tmKept_sealMessage (cfg : Config) (r : NodeId) (cmd : Byte) (p : Bytes) (n : Option Byte) (s : State) :
    TmKept s (sealMessage cfg r cmd p n s).1 := by
  cases hk : sealChecks r p n s with
  | error e => rw [sealMessage_error cfg hk]; exact .of_silent rfl le_rfl rfl
  | ok x => rw [sealMessage_ok cfg hk]; exact .of_silent rfl le_rfl rfl

theorem tmKept_sealCommand (cfg : Config) (r : NodeId) (cmd : Byte) (p : Bytes) (n : Option Byte) (s : State) :
    TmKept s (sealCommand cfg r cmd p n s) := by
  have hseal := tmKept_sealMessage cfg r cmd p n s
  unfold sealCommand
  revert hseal
  rcases sealMessage cfg r cmd p n s with ⟨s', e | x⟩
  · exact fun hseal => hseal.answer _
  · exact fun hseal => hseal.answer _

theorem tmKept_openMessage (sender : NodeId) (cmd : Byte) (sn ct : Bytes) (id : Byte) (mac : Bytes) (s : State) :
    TmKept s (openMessage sender cmd sn ct id mac s) := by
  cases hk : openChecks sender sn ct id mac s with
  | error e => rw [openMessage_error hk]; exact tmKept_answer ..
  | ok x => rw [openMessage_ok hk]; exact (tmKept_setNt _ s).answer _

theorem tmKept_generateNonce (cfg : Config) (forNode : NodeId) (s : State) :
    TmKept s (generateNonce cfg forNode s) := by
  unfold generateNonce
  split
  · exact tmKept_raise ..
  · split
    · exact tmKept_raise ..
    · exact .of_silent rfl (Nat.le_succ _) rfl

theorem tmKept_keepNonce (issuer : NodeId) (nonce : Bytes) (receiver : NodeId) (free : Bool) (s : State) :
    TmKept s (keepNonce issuer nonce receiver free s) := by
  unfold keepNonce
  split
  · exact tmKept_raise ..
  · exact (tmKept_storeNonce issuer nonce receiver free s).answer _

theorem tmKept_findFree (issuer : NodeId) (s : State) : TmKept s (findFree issuer s) := by
  unfold findFree
  split
  · exact tmKept_answer ..
  · exact (tmKept_setNt _ s).answer _

theorem tmKept_releaseNonce (k : NonceKey) (s : State) : TmKept s (releaseNonce k s) := by
  unfold releaseNonce
  split
  · exact tmKept_raise ..
  · exact (tmKept_setNt _ s).answer _

theorem tmKept_takeNonce (k : NonceKey) (s : State) : TmKept s (takeNonce k s) := by
  unfold takeNonce
  split
  · exact tmKept_raise ..
  · exact (tmKept_setNt _ s).answer _

theorem tmKept_setKey (key : Bytes) (s : State) : TmKept s (setKey key s) := by
  rcases setKey_cases key s with ⟨e, he⟩ | ⟨-, -, he⟩
  · exact he ▸ tmKept_raise e s
  · exact he ▸ .of_silent rfl le_rfl rfl

/-- The instructions that reach the transaction machine: its own steps and commands, and the symbols that it is told of. -/
def reachesTm : Instr → Bool
  | .ack => true
  | .nak => true
  | .can => true
  | .dataReq _ _ => true
  | .dataRes _ _ => true
  | .rxByte _ => true
  | .tmDispatch => true
  | .tmTimeoutAck => true
  | .tmTimeoutResp => true
  | .tmTimeoutUpd => true
  | .tmTimeoutRetry => true
  | .sysReset => true
  | .sysDestroy => true
  | .tmAdd _ => true
  | .tmReject _ _ => true
  | .tmNodeAsleep _ => true
  | _ => false

theorem tmKept_exec {i : Instr} (s : State) (hi : reachesTm i = false) : Leaves (TmKept s) (exec i s) := by
  cases i with
  | dataBadlen len _ => exact leaves_next (.of_silent rfl le_rfl rfl)
  | dataCsfail len _ => exact leaves_next (.of_silent rfl le_rfl rfl)
  | dataOther type funcId payload => exact leaves_next ⟨rfl, le_rfl, _, rfl, rfl⟩
  | skip _ => exact leaves_next (.of_silent rfl le_rfl rfl)
  | dataEncode type funcId payload =>
    refine leaves_next ?_
    cases serialize type funcId payload with
    | ok f => exact tmKept_answer ..
    | error e => exact tmKept_raise ..
  | txEmit => exact leaves_txEmit fun _ _ _ => .of_silent rfl le_rfl rfl
  | rxTimeout => exact leaves_ite (.of_silent rfl le_rfl rfl)
  | ntExpire issuer id => exact leaves_ite (tmKept_setNt ..)
  | sysSetid id => exact leaves_next (.of_silent rfl le_rfl rfl)
  | sysStatus => exact leaves_next (tmKept_answer ..)
  | seSetkey key => exact leaves_next (tmKept_setKey ..)
  | seEncrypt p sn rn => exact leaves_next (by rw [crypt_eq]; exact tmKept_answer ..)
  | seDecrypt c sn rn => exact leaves_next (by rw [crypt_eq]; exact tmKept_answer ..)
  | seMac sn rn cmd a b ct => exact leaves_next (by rw [computeMac_eq]; exact tmKept_answer ..)
  | seVerify sn rn cmd a b ct mac => exact leaves_next (by rw [verifyMac_eq]; exact tmKept_answer ..)
  | seSeal r cmd p n => exact leaves_next (tmKept_sealCommand ..)
  | seOpen sender cmd sn ct id mac => exact leaves_next (tmKept_openMessage ..)
  | ntGenerate n => exact leaves_next (tmKept_generateNonce ..)
  | ntStore issuer n r free => exact leaves_next (tmKept_keepNonce ..)
  | ntFindfree issuer => exact leaves_next (tmKept_findFree ..)
  | ntRelease issuer id => exact leaves_next (tmKept_releaseNonce ..)
  | ntTake issuer id => exact leaves_next (tmKept_takeNonce ..)
  | _ => exact nomatch hi

theorem leaves_if {P : State → Prop} {p : Prop} [Decidable p] {t : State} {f : Fault} (h : p → P t) :
    Leaves P (if p then .next t else .fault f) := by
  split
  · next hp => exact leaves_next (h hp)
  · exact leaves_fault f

/-- `TM.DISPATCH` runs on an idle TM, with the transaction `nextTxn` names. -/
theorem leaves_tmDispatch {P : State → Prop} {s : State}
    (h : ∀ c, s.tm.st = .idle → nextTxn s = some c → P (dispatchTxn Config.host c s)) :
    Leaves P (exec .tmDispatch s) := by
  simp only [exec, execTmDispatch]
  split
  · next hidle =>
    split
    · exact leaves_fault _
    · next c hn => exact leaves_next (h c hidle.1 hn)
  · exact leaves_fault _

/-! ### The records of TM -/

/-- Taking a queued transaction out of the queue takes it out once: no two have one id. -/
theorem QueueInv.perm_cons_filter {s : State} (h : QueueInv s) {c : Txn} (hc : c ∈ s.tm.q) :
    s.tm.q.Perm (c :: s.tm.q.filter fun x => x ≠ c) := by
  obtain ⟨-, hids, -⟩ := h
  have hnodup : s.tm.q.Nodup := hids.imp fun hne heq => hne (congrArg Txn.id heq)
  have herase : s.tm.q.erase c = s.tm.q.filter fun x => x ≠ c := by
    rw [hnodup.erase_eq_filter]
    exact List.filter_congr fun x _ => by rw [Bool.eq_iff_iff]; simp
  exact herase ▸ List.perm_cons_erase hc

/-- `c` taken from the queue: what stays has other ids and stamps. -/
theorem records_taken {s : State} (h : QueueInv s) {c : Txn} (hc : c ∈ s.tm.q) : Records (taken c s) := by
  have hperm := h.perm_cons_filter hc
  obtain ⟨hstamps, hids, hok⟩ := h
  have hsub : (s.tm.q.filter fun x => x ≠ c).Sublist s.tm.q := List.filter_sublist
  have hid := List.pairwise_cons.mp ((hperm.pairwise_iff fun hne => hne.symm).mp hids)
  have hstamp := List.pairwise_cons.mp ((hperm.pairwise_iff fun hne => hne.symm).mp (hstamps.imp Nat.ne_of_lt))
  refine ⟨fun x hx => ?_, hstamps.sublist hsub, hids.sublist hsub, fun x hx => hok x (hsub.subset hx)⟩
  cases hx
  exact ⟨hok c hc, fun y hy => ⟨(hid.1 y hy).symm, (hstamp.1 y hy).symm⟩⟩

/-- The stamp of a transaction is an old value of `SEQ` (10_state.md R42). -/
theorem txnOk_created_lt {seq : Nat} {t : Txn} (h : txnOk seq t) : t.created < seq := by
  obtain ⟨-, -, -, -, hlt⟩ := h
  exact hlt

/-- An unsettled transaction with an id and a stamp of its own may be added to the queue. -/
theorem queueInv_qInsert {s u : State} {t : Txn} (h : QueueInv s) (hq : u.tm.q = qInsert t s.tm.q) (hseq : s.seq ≤ u.seq)
    (ht : txnOk u.seq t) (hnew : ∀ x ∈ s.tm.q, x.id ≠ t.id ∧ x.created ≠ t.created) : QueueInv u := by
  obtain ⟨hstamps, hids, hok⟩ := h
  unfold QueueInv
  rw [hq]
  refine ⟨qInsert_sorted hstamps fun x hx => (hnew x hx).2, ?_, fun x hx => ?_⟩
  · refine ((qInsert_perm t s.tm.q).pairwise_iff fun hne => hne.symm).mpr (List.pairwise_cons.mpr ⟨fun x hx => ?_, hids⟩)
    exact (hnew x hx).1.symm
  · rcases mem_qInsert.mp hx with rfl | hx
    · exact ht
    · exact txnOk_mono hseq (hok x hx)

/-- The records stay in order when queued transactions leave and others change nothing but their priority. -/
theorem Records.filter_map {s t : State} (h : Records s) (p : Txn → Bool) {f : Txn → Txn}
    (hid : ∀ x, (f x).id = x.id) (hcreated : ∀ x, (f x).created = x.created) (hok : ∀ n x, txnOk n x → txnOk n (f x))
    (hcur : t.tm.cur = s.tm.cur) (hq : t.tm.q = (s.tm.q.filter p).map f) (hseq : t.seq = s.seq) : Records t := by
  obtain ⟨hc, hstamps, hids, hall⟩ := h
  have hsub : (s.tm.q.filter p).Sublist s.tm.q := List.filter_sublist
  unfold Records CurInv QueueInv
  rw [hcur, hq, hseq]
  simp only [List.pairwise_map, List.forall_mem_map, hid, hcreated]
  exact ⟨fun c hx => ⟨(hc c hx).1, fun x hm => (hc c hx).2 x (hsub.subset hm)⟩, hstamps.sublist hsub, hids.sublist hsub,
    fun x hm => hok _ x (hall x (hsub.subset hm))⟩

theorem Records.filter {s t : State} (h : Records s) (p : Txn → Bool) (hcur : t.tm.cur = s.tm.cur)
    (hq : t.tm.q = s.tm.q.filter p) (hseq : t.seq = s.seq) : Records t :=
  h.filter_map p (f := id) (fun _ => rfl) (fun _ => rfl) (fun _ _ hx => hx) hcur (by rw [hq, List.map_id]) hseq

/-! ### The invariants of TM -/

theorem TmKept.tmInv {s t : State} (h : TmKept s t) (hs : TmInv s) : TmInv t := hs.congr h.tm h.seq

/-- The invariants of TM read the queue through the records only, and `LIFE` not at all. -/
theorem TmInv.with_queue {s t : State} (h : TmInv s) (ht : t.tm = { s.tm with q := t.tm.q, life := t.tm.life })
    (hr : Records t) : TmInv t := by
  obtain ⟨hcur, hph, htimer, hlatch, -⟩ := h
  refine ⟨?_, ?_, ?_, ?_, hr⟩
  · rw [ht]; exact hcur
  · rw [ht]; exact hph
  · rw [ht]; exact htimer
  · rw [ht]; exact hlatch

/-- TM waits for the line in `handshake` and in `execute` only (10_state.md R38). -/
theorem TmInv.st_of_waiting {s : State} (h : TmInv s) (hph : s.tm.ph ≠ .none) :
    s.tm.st = .handshake ∨ s.tm.st = .execute := by
  obtain ⟨-, hiff, -⟩ := h
  exact hiff.mp hph

/-- A timer other than the retry timer runs while an attempt or an update is awaited (10_state.md R39). -/
theorem TmInv.st_of_timer {s : State} (h : TmInv s) (ht : s.tm.tmr = .ack ∨ s.tm.tmr = .resp ∨ s.tm.tmr = .upd) :
    s.tm.st = .handshake ∨ s.tm.st = .execute ∨ s.tm.st = .waitForUpdate := by
  obtain ⟨-, hph, ⟨hack, hresp, hupd, -⟩, -⟩ := h
  rcases ht with ht | ht | ht
  · exact or_assoc.mp (.inl (hph.mp (by rw [hack.mp ht]; decide)))
  · exact or_assoc.mp (.inl (hph.mp (by rw [hresp.mp ht]; decide)))
  · exact .inr (.inr (hupd.mp ht))

theorem tmInv_finalize {s : State} (h : TmInv s) (o : TxnOutcome) : TmInv (finalize o s) := by
  cases hc : s.tm.cur with
  | none => rw [finalize_none hc]; exact h
  | some c => rw [finalize_eq hc]; exact tmInv_settledWith h.records c o

theorem tmInv_awaitReply {s : State} (h : TmInv s) (hph : s.tm.ph = .waitAck) (he : activeExpect s.tm ≠ none) :
    TmInv (awaitReply s) := by
  have hst := h.st_of_waiting (by rw [hph]; decide)
  obtain ⟨hcur, -, -, ⟨hidle, hhs, hex, -⟩, hr⟩ := h
  refine ⟨hcur, by simpa using hst, ?_, ⟨hidle, hhs, hex, fun _ => he⟩, hr⟩
  rcases hst with hst | hst
  · simp [TimerInv, hst]
  · simp [TimerInv, hst]

theorem tmInv_linkAck (cfg : Config) {s : State} (h : TmInv s) : TmInv (linkAck cfg s) := by
  by_cases hph : s.tm.ph = .waitAck
  · by_cases he : activeExpect s.tm = none
    · rw [linkAck_ends cfg hph he]
      exact tmInv_primitiveSuccess cfg h (h.st_of_waiting (by rw [hph]; decide)) none
    · rw [linkAck_awaitsReply cfg hph he]
      exact tmInv_awaitReply h hph he
  · rw [linkAck_ignored cfg hph]
    exact h

/-- A failure on the line, while TM waits for the line. -/
theorem tmInv_fail_waiting {s : State} (h : TmInv s) (hph : s.tm.ph ≠ .none) {cause : ErrCode} (hn : cause ≠ .noNonce) :
    TmInv (fail cause s) := tmInv_fail h (or_assoc.mp (.inl (h.st_of_waiting hph))) hn

theorem tmInv_linkNak {s : State} (h : TmInv s) : TmInv (linkNak s) := by
  unfold linkNak
  split
  · next hph => exact tmInv_fail_waiting h (by rw [hph]; decide) (by decide)
  · exact h

theorem tmInv_linkCan {s : State} (h : TmInv s) : TmInv (linkCan s) := by
  unfold linkCan
  split
  · next hph => exact tmInv_fail_waiting h (by rw [hph]; decide) (by decide)
  · exact h

theorem tmInv_unsolicited {s : State} (h : TmInv s) (m : Message) : TmInv (emit (.unsolicited m) s) :=
  (tmKept_emit rfl s).tmInv h

theorem tmInv_msgInReply (cfg : Config) (m : Message) {s : State} (h : TmInv s) (hph : s.tm.ph = .waitReply) :
    TmInv (msgInReply cfg m s) := by
  have hwait : s.tm.ph ≠ .none := by rw [hph]; decide
  unfold msgInReply
  split
  · exact tmInv_primitiveSuccess cfg h (h.st_of_waiting hwait) _
  · exact h
  · exact tmInv_fail_waiting h hwait (by decide)
  · exact tmInv_unsolicited h m

theorem tmInv_msgInUpdate (cfg : Config) (m : Message) {s : State} (h : TmInv s) : TmInv (msgInUpdate cfg m s) := by
  unfold msgInUpdate
  split
  · exact tmInv_unsolicited h m
  · split
    · exact tmInv_finalize h _
    · exact tmInv_unsolicited h m

theorem tmInv_msg (cfg : Config) (m : Message) {s : State} (h : TmInv s) : TmInv (msg cfg m s) := by
  unfold msg
  split
  · split
    · next hph => exact tmInv_msgInReply cfg m h hph
    · exact tmInv_unsolicited h m
  · split
    · next hph => exact tmInv_msgInReply cfg m h hph
    · exact tmInv_unsolicited h m
  · exact tmInv_msgInUpdate cfg m h
  · exact tmInv_unsolicited h m
  · exact tmInv_unsolicited h m

/-- One symbol of the line. -/
theorem tmInv_handleOutcome (cfg : Config) (o : ParseOutcome) {s : State} (h : TmInv s) :
    TmInv (handleOutcome cfg o s) := by
  match o with
  | .incomplete => exact h
  | .skip n => exact h
  | .frame .ack n => exact tmInv_linkAck cfg (s := consume n s) h
  | .frame .nak n => exact tmInv_linkNak (s := consume n s) h
  | .frame .can n => exact tmInv_linkCan (s := consume n s) h
  | .frame (.data d) n =>
    simp only [handleOutcome, dispatchData]
    split
    · exact tmInv_msg cfg _ (s := acceptFrame n s) h
    · exact (tmKept_emit rfl (acceptFrame n s)).tmInv h
  | .invalid .checksum n => exact h
  | .invalid .length n => exact h

theorem tmInv_receiveLoop (cfg : Config) (fuel : Nat) {s : State} (h : TmInv s) : TmInv (receiveLoop cfg fuel s) := by
  induction fuel generalizing s with
  | zero => exact h
  | succ fuel ih =>
    unfold receiveLoop
    split
    · exact h
    · exact ih (tmInv_handleOutcome cfg _ h)

theorem tmInv_receiveByte (cfg : Config) (b : Byte) {s : State} (h : TmInv s) : TmInv (receiveByte cfg b s) :=
  tmInv_receiveLoop cfg _ (s := receive b s) h

/-- TM idle takes a queued transaction: nothing is latched, and a handshake is started only with a handshake message. -/
theorem tmInv_dispatchTxn (cfg : Config) {s : State} {c : Txn} (h : TmInv s) (hst : s.tm.st = .idle)
    (hc : c ∈ s.tm.q) : TmInv (dispatchTxn cfg c s) := by
  obtain ⟨-, -, -, ⟨hidle, -⟩, -, hq⟩ := h
  obtain ⟨-, htx, -⟩ := hidle hst
  have hr : Records (makeCurrent c s) := records_taken hq hc
  unfold dispatchTxn
  split
  · next hneed =>
    obtain ⟨m, hm⟩ := hsMsg_of_needHS hneed
    exact tmInv_enterHandshake hr rfl hm htx
  · exact tmInv_enterExecute cfg hr rfl

/-- The end of `retryWait`: `HSF` says whether the frame is latched yet. -/
theorem tmInv_retryAttempt (cfg : Config) {s : State} (h : TmInv s) (ht : s.tm.tmr = .retry) :
    TmInv (retryAttempt cfg s) := by
  have hr : Records (disarm s) := h.records
  obtain ⟨hcur, -, ⟨-, -, -, hretry, -⟩, ⟨-, hhs, -⟩, -⟩ := h
  have hst : s.tm.st = .retryWait := hretry.mp ht
  unfold retryAttempt
  split
  · next hf =>
    obtain ⟨htx, c, m, hc, hm⟩ := hhs (.inr ⟨hst, hf⟩)
    exact tmInv_enterHandshake hr hc hm htx
  · obtain ⟨c, hc⟩ := Option.ne_none_iff_exists'.mp fun hnone => by
      rw [hcur.mp hnone] at hst
      nomatch hst
    exact tmInv_enterExecute cfg hr hc

/-- What the checks of `TM.ADD` leave (44_transaction_fsm.md R248). -/
theorem accepted_of_addError {t : TxnSpec} {s : State} (h : addError t s = none) :
    specAttempts t ≠ 0 ∧ t.msg.payload.length ≤ 252 ∧ (∀ m, t.hsMsg = some m → m.payload.length ≤ 252) ∧
      t.id ∉ unsettledIds s.tm := by
  have hno : ¬ (specAttempts t = 0 ∨ tooLong t.msg ∨ t.hsMsg.any tooLong ∨ idInUse t.id s.tm) := by
    intro hp
    simp only [addError, if_pos hp] at h
    split at h <;> nomatch h
  have hlong {m : Message} : tooLong m = true ↔ ¬ m.payload.length ≤ 252 := tooLong_iff.trans Nat.not_le.symm
  rw [hlong, idInUse_iff, Option.any_eq_true] at hno
  simp only [hlong] at hno
  push Not at hno
  exact hno

/-- `TM.ADD` answers an error, or queues the record. -/
theorem addTxn_cases (t : TxnSpec) (s : State) :
    (∃ e, addTxn t s = raise e s) ∨ (addError t s = none ∧
      addTxn t s = answer .done (stamp (setQ (qInsert (txnOfSpec t s.seq) s.tm.q) s))) := by
  unfold addTxn
  cases addError t s with
  | some e => exact .inl ⟨e, rfl⟩
  | none => exact .inr ⟨rfl, rfl⟩

theorem mem_unsettledIds {i : TxnId} {r : TmRegs} :
    i ∈ unsettledIds r ↔ (∃ x ∈ r.q, x.id = i) ∨ ∃ c, r.cur = some c ∧ c.id = i := by
  simp [unsettledIds]

theorem tmInv_addTxn (t : TxnSpec) {s : State} (h : TmInv s) : TmInv (addTxn t s) := by
  rcases addTxn_cases t s with ⟨e, he⟩ | ⟨hnone, he⟩
  · exact he ▸ (tmKept_raise e s).tmInv h
  · obtain ⟨hattempts, hlen, hhs, hid⟩ := accepted_of_addError hnone
    rw [mem_unsettledIds, not_or] at hid
    obtain ⟨hcur, hq⟩ := h.records
    rw [he]
    refine h.with_queue rfl ⟨fun c hc => ?_, ?_⟩
    · obtain ⟨hok, hother⟩ := hcur c hc
      refine ⟨txnOk_mono (Nat.le_succ _) hok, fun x hx => ?_⟩
      rcases mem_qInsert.mp hx with rfl | hx
      · exact ⟨fun hx => hid.2 ⟨c, hc, hx.symm⟩, (Nat.ne_of_lt (txnOk_created_lt hok)).symm⟩
      · exact hother x hx
    · refine queueInv_qInsert hq rfl (Nat.le_succ _) ?_ fun x hx => ?_
      · exact ⟨rfl, Nat.pos_of_ne_zero hattempts, hlen, hhs, Nat.lt_succ_self _⟩
      · obtain ⟨-, -, hall⟩ := hq
        exact ⟨fun hx' => hid.1 ⟨x, hx, hx'⟩, Nat.ne_of_lt (txnOk_created_lt (hall x hx))⟩

theorem tmInv_purgeQueue (p : Txn → Bool) (o : TxnOutcome) {s : State} (h : TmInv s) : TmInv (purgeQueue p o s) := by
  rw [purgeQueue_eq]
  exact h.with_queue rfl (h.records.filter _ rfl rfl rfl)

theorem tmInv_purge (p : Txn → Bool) (o : TxnOutcome) {s : State} (h : TmInv s) : TmInv (purge p o s) := by
  unfold purge
  split
  · exact tmInv_finalize (tmInv_purgeQueue p o h) o
  · exact tmInv_purgeQueue p o h

theorem retagQueued_id (n : NodeId) (t : Txn) : (retagQueued n t).id = t.id := by
  unfold retagQueued
  split
  · rfl
  · rfl

theorem retagQueued_created (n : NodeId) (t : Txn) : (retagQueued n t).created = t.created := by
  unfold retagQueued
  split
  · rfl
  · rfl

theorem txnOk_retagQueued (n : NodeId) {seq : Nat} {t : Txn} (ht : txnOk seq t) : txnOk seq (retagQueued n t) := by
  unfold retagQueued
  split
  · exact ht
  · exact ht

theorem tmInv_sleepQueue (cfg : Config) (n : NodeId) {s : State} (h : TmInv s) : TmInv (sleepQueue cfg n s) := by
  rw [sleepQueue_eq]
  exact h.with_queue rfl (h.records.filter_map _ (retagQueued_id n) (retagQueued_created n)
    (fun _ _ => txnOk_retagQueued n) rfl rfl rfl)

theorem tmInv_requeue {s : State} {c : Txn} (h : TmInv s) (hc : s.tm.cur = some c) : TmInv (requeue c s) := by
  obtain ⟨hcur, hq⟩ := h.records
  obtain ⟨hok, hother⟩ := hcur c hc
  exact tmInv_of_idle (queueInv_qInsert (t := retag c) hq rfl le_rfl hok hother) rfl

theorem tmInv_sleepCurrent (n : NodeId) {s : State} (h : TmInv s) : TmInv (sleepCurrent n s) := by
  rcases sleepCurrent_cases n s with ⟨-, he⟩ | ⟨c, hc, -, ⟨-, he⟩ | ⟨-, he⟩⟩
  · rw [he]; exact h
  · rw [he]; exact tmInv_settledWith h.records c _
  · rw [he]; exact tmInv_requeue h hc

/-- TM with its reset values. -/
theorem tmInv_of_resetTm {s : State} (h : s.tm = resetTm) : TmInv s := by
  refine tmInv_of_idle ?_ (by rw [h]; rfl)
  unfold QueueInv
  rw [h]
  exact ⟨.nil, .nil, List.forall_mem_nil _⟩

/-- Every instruction keeps the invariants of TM. -/
theorem tmInv_exec (i : Instr) {s : State} (hs : TmInv s) : Leaves TmInv (exec i s) := by
  cases i with
  | ack => exact leaves_next (tmInv_linkAck _ (s := consume 1 s) hs)
  | nak => exact leaves_next (tmInv_linkNak (s := consume 1 s) hs)
  | can => exact leaves_next (tmInv_linkCan (s := consume 1 s) hs)
  | dataReq funcId payload => exact leaves_next (tmInv_msg _ _ (s := acceptFrame _ s) hs)
  | dataRes funcId payload => exact leaves_next (tmInv_msg _ _ (s := acceptFrame _ s) hs)
  | rxByte b => exact leaves_next (tmInv_receiveByte _ b hs)
  | tmDispatch => exact leaves_tmDispatch fun c hst hn => tmInv_dispatchTxn _ hs hst (nextTxn_spec hn).1
  | tmTimeoutAck => exact leaves_if fun ht => tmInv_fail hs (hs.st_of_timer (.inl ht)) (by decide)
  | tmTimeoutResp => exact leaves_if fun ht => tmInv_fail hs (hs.st_of_timer (.inr (.inl ht))) (by decide)
  | tmTimeoutUpd => exact leaves_if fun ht => tmInv_fail hs (hs.st_of_timer (.inr (.inr ht))) (by decide)
  | tmTimeoutRetry => exact leaves_if fun ht => tmInv_retryAttempt _ hs ht
  | sysReset => exact leaves_next (tmInv_of_resetTm rfl)
  | sysDestroy =>
    have hpurge := tmInv_purge (fun _ => true) (.failure .driverDestroyed none) hs
    exact leaves_next (hpurge.with_queue rfl hpurge.records)
  | tmAdd t => exact leaves_next (tmInv_addTxn t hs)
  | tmReject p reason => exact leaves_next (tmInv_purge _ _ hs)
  | tmNodeAsleep n => exact leaves_next (tmInv_sleepCurrent n (tmInv_sleepQueue _ n hs))
  | _ => exact (tmKept_exec s rfl).mono fun _ h => h.tmInv hs

/-- Settles O51: a step runs an instruction or writes no register of TM. -/
theorem stepKeepsTmInv : Obligations.StepKeepsTmInv := by
  intro s t hs h
  rcases step_cases h with ⟨i, u, -, hi, rfl⟩ | ⟨m, i, rest, -, hi⟩ | ⟨p, rest, rfl⟩ | ⟨rest, rfl⟩ | rfl
  · exact tmInv_exec i hs u hi
  · exact tmInv_exec i (s := setSched rest s) hs t hi
  · exact hs
  · exact hs
  · exact hs

/-- Settles O3: at reset every store is empty and TM is idle. -/
theorem resetInvariant : Obligations.ResetInvariant :=
  ⟨⟨.inl rfl, by decide⟩, ⟨rfl, rfl, rfl⟩, ⟨.nil, .nil, List.forall_mem_nil _⟩, tmInv_of_resetTm rfl⟩

/-! ### The ids of the transactions -/

/-- The ids unsettled in `t` and those reported as settled on the way from `s` are together the ids unsettled in `s`
(44_transaction_fsm.md R270, R279 (c)). -/
def Conserves (s t : State) : Prop :=
  ∃ l, t.ports.events = s.ports.events ++ l ∧ (unsettledIds t.tm ++ doneIds l).Perm (unsettledIds s.tm)

theorem doneIds_append (l l' : List Event) : doneIds (l ++ l') = doneIds l ++ doneIds l' := List.filterMap_append

theorem doneIds_reports (o : TxnOutcome) (ts : List Txn) :
    doneIds (ts.map fun t => Event.txnDone t.id o) = ts.map fun t => t.id := by
  simp only [doneIds, List.filterMap_map]
  exact List.filterMap_eq_map_iff_forall_eq_some.mpr fun _ _ => rfl

/-- Nothing is settled, and the ids are the same. -/
theorem Conserves.of_ids {s t : State} (hids : (unsettledIds t.tm).Perm (unsettledIds s.tm))
    (hevents : ∃ l, t.ports.events = s.ports.events ++ l ∧ doneIds l = []) : Conserves s t := by
  obtain ⟨l, hl, hnone⟩ := hevents
  exact ⟨l, hl, by rw [hnone, List.append_nil]; exact hids⟩

/-- Writes that neither touch the two places of a transaction nor emit. -/
theorem Conserves.of_frame {s t : State} (hq : t.tm.q = s.tm.q) (hcur : t.tm.cur = s.tm.cur)
    (hevents : t.ports.events = s.ports.events) : Conserves s t :=
  .of_ids (by rw [unsettledIds, unsettledIds, hq, hcur]) ⟨[], by rw [hevents, List.append_nil], rfl⟩

theorem TmKept.conserves {s t : State} (h : TmKept s t) : Conserves s t := .of_ids (by rw [h.tm]) h.events

theorem Conserves.refl (s : State) : Conserves s s := .of_frame rfl rfl rfl

theorem Conserves.trans {s t u : State} (h : Conserves s t) (h' : Conserves t u) : Conserves s u := by
  obtain ⟨l, hl, hp⟩ := h
  obtain ⟨l', hl', hp'⟩ := h'
  refine ⟨l ++ l', by rw [hl', hl, List.append_assoc], ?_⟩
  calc unsettledIds u.tm ++ doneIds (l ++ l')
      = unsettledIds u.tm ++ (doneIds l ++ doneIds l') := by rw [doneIds_append]
    List.Perm _ (unsettledIds u.tm ++ (doneIds l' ++ doneIds l)) := List.perm_append_comm.append_left _
    _ = (unsettledIds u.tm ++ doneIds l') ++ doneIds l := (List.append_assoc ..).symm
    List.Perm _ (unsettledIds t.tm ++ doneIds l) := hp'.append_right _
    List.Perm _ (unsettledIds s.tm) := hp

theorem unsettledIds_of_cur {r : TmRegs} {c : Txn} (hc : r.cur = some c) :
    unsettledIds r = r.q.map (fun t => t.id) ++ [c.id] := by
  rw [unsettledIds, hc]
  rfl

theorem unsettledIds_of_idle {r : TmRegs} (hc : r.cur = none) : unsettledIds r = r.q.map fun t => t.id := by
  rw [unsettledIds, hc]
  exact List.append_nil _

theorem conserves_settledWith {s : State} {c : Txn} (hc : s.tm.cur = some c) (o : TxnOutcome) :
    Conserves s (settledWith c o s) := by
  refine ⟨[.txnDone c.id o], rfl, ?_⟩
  rw [unsettledIds_of_idle rfl, unsettledIds_of_cur hc]
  exact .refl _

theorem conserves_finalize (o : TxnOutcome) (s : State) : Conserves s (finalize o s) := by
  cases hc : s.tm.cur with
  | none => rw [finalize_none hc]; exact .refl s
  | some c => rw [finalize_eq hc]; exact conserves_settledWith hc o

/-- A failed attempt keeps the transaction current, or settles it. -/
theorem conserves_fail (cause : ErrCode) (s : State) : Conserves s (fail cause s) := by
  cases hc : s.tm.cur with
  | none => rw [fail_none hc]; exact .refl s
  | some c =>
    rw [fail_eq hc, failedWith]
    split
    · refine .of_ids ?_ ⟨[], (List.append_nil _).symm, rfl⟩
      rw [unsettledIds_of_cur rfl, unsettledIds_of_cur hc]
    · exact conserves_settledWith hc _

theorem conserves_enterHandshake (s : State) : Conserves s (enterHandshake s) := by
  unfold enterHandshake
  split
  · exact .refl s
  · split
    · exact .refl s
    · split
      · exact .of_frame rfl rfl rfl
      · exact conserves_finalize _ (setSt .handshake s)

theorem tmKept_materialize (cfg : Config) (t : Txn) (s : State) : TmKept s (materialize cfg t s).1 := by
  have hid : TmKept s s := .of_silent rfl le_rfl rfl
  unfold materialize
  split
  · exact hid
  · split
    · exact hid
    · next n _ =>
      have hseal := tmKept_sealMessage cfg n t.secCmd t.secPlain none s
      revert hseal
      rcases sealMessage cfg n t.secCmd t.secPlain none s with ⟨s', e | p⟩
      · exact id
      · dsimp only
        split
        · exact id
        · exact id

theorem conserves_buildError (e : ErrCode) (t : Txn) (s : State) : Conserves s (buildError e t s) := by
  unfold buildError
  split
  · exact conserves_fail _ s
  · exact conserves_finalize _ s

theorem conserves_sendBuilt (t : Txn) (p : Bytes) (s : State) : Conserves s (sendBuilt t p s) := by
  unfold sendBuilt
  split
  · exact .of_frame rfl rfl rfl
  · exact conserves_buildError _ t s

theorem conserves_enterExecute (cfg : Config) (s : State) : Conserves s (enterExecute cfg s) := by
  unfold enterExecute
  split
  · exact .refl s
  · next t _ =>
    split
    · exact .of_frame rfl rfl rfl
    · have hset : Conserves s (setSt .execute s) := .of_frame rfl rfl rfl
      have hbuild := hset.trans (tmKept_materialize cfg t (setSt .execute s)).conserves
      revert hbuild
      rcases materialize cfg t (setSt .execute s) with ⟨s', e | p⟩
      · exact fun hbuild => hbuild.trans (conserves_buildError e t s')
      · exact fun hbuild => hbuild.trans (conserves_sendBuilt t p s')

theorem tmKept_storeReplyNonce (cfg : Config) (r : Option Message) (s : State) : TmKept s (storeReplyNonce cfg r s) := by
  unfold storeReplyNonce
  split
  · exact tmKept_storeNonce ..
  · exact .of_silent rfl le_rfl rfl

theorem conserves_primitiveSuccess (cfg : Config) (r : Option Message) (s : State) :
    Conserves s (primitiveSuccess cfg r s) := by
  have hend : Conserves s (endPrimitive s) := .of_frame rfl rfl rfl
  unfold primitiveSuccess
  split
  · have hlatch : Conserves s (latchReply r (endPrimitive s)) := .of_frame rfl rfl rfl
    exact (hlatch.trans (tmKept_storeReplyNonce cfg r _).conserves).trans (conserves_enterExecute cfg _)
  · unfold executeSuccess
    split
    · exact hend
    · split
      · exact .of_frame rfl rfl rfl
      · exact hend.trans (conserves_finalize _ _)
  · exact .refl s
  · exact .refl s
  · exact .refl s

theorem conserves_linkAck (cfg : Config) (s : State) : Conserves s (linkAck cfg s) := by
  unfold linkAck
  split
  · split
    · exact conserves_primitiveSuccess cfg none s
    · exact .of_frame rfl rfl rfl
  · exact .refl s

theorem conserves_linkNak (s : State) : Conserves s (linkNak s) := by
  unfold linkNak
  split
  · exact conserves_fail _ s
  · exact .refl s

theorem conserves_linkCan (s : State) : Conserves s (linkCan s) := by
  unfold linkCan
  split
  · exact conserves_fail _ s
  · exact .refl s

theorem conserves_unsolicited (m : Message) (s : State) : Conserves s (emit (.unsolicited m) s) :=
  (tmKept_emit rfl s).conserves

theorem conserves_msgInReply (cfg : Config) (m : Message) (s : State) : Conserves s (msgInReply cfg m s) := by
  unfold msgInReply
  split
  · exact conserves_primitiveSuccess cfg _ s
  · exact .refl s
  · exact conserves_fail _ s
  · exact conserves_unsolicited m s

theorem conserves_msgInUpdate (cfg : Config) (m : Message) (s : State) : Conserves s (msgInUpdate cfg m s) := by
  unfold msgInUpdate
  split
  · exact conserves_unsolicited m s
  · split
    · exact conserves_finalize _ s
    · exact conserves_unsolicited m s

theorem conserves_msg (cfg : Config) (m : Message) (s : State) : Conserves s (msg cfg m s) := by
  unfold msg
  split
  · split
    · exact conserves_msgInReply cfg m s
    · exact conserves_unsolicited m s
  · split
    · exact conserves_msgInReply cfg m s
    · exact conserves_unsolicited m s
  · exact conserves_msgInUpdate cfg m s
  · exact conserves_unsolicited m s
  · exact conserves_unsolicited m s

theorem conserves_handleOutcome (cfg : Config) (o : ParseOutcome) (s : State) : Conserves s (handleOutcome cfg o s) := by
  match o with
  | .incomplete => exact .refl s
  | .skip n => exact .of_frame rfl rfl rfl
  | .frame .ack n => exact conserves_linkAck cfg (consume n s)
  | .frame .nak n => exact conserves_linkNak (consume n s)
  | .frame .can n => exact conserves_linkCan (consume n s)
  | .frame (.data d) n =>
    simp only [handleOutcome, dispatchData]
    split
    · exact conserves_msg cfg _ (acceptFrame n s)
    · exact (tmKept_emit rfl (acceptFrame n s)).conserves
  | .invalid .checksum n => exact .of_frame rfl rfl rfl
  | .invalid .length n => exact .of_frame rfl rfl rfl

theorem conserves_receiveLoop (cfg : Config) (fuel : Nat) (s : State) : Conserves s (receiveLoop cfg fuel s) := by
  induction fuel generalizing s with
  | zero => exact .refl s
  | succ fuel ih =>
    unfold receiveLoop
    split
    · exact .refl s
    · exact (conserves_handleOutcome cfg _ s).trans (ih _)

theorem conserves_receiveByte (cfg : Config) (b : Byte) (s : State) : Conserves s (receiveByte cfg b s) :=
  conserves_receiveLoop cfg _ (receive b s)

/-- An idle TM moves a transaction from the queue to `CUR`. -/
theorem conserves_taken {s : State} {c : Txn} (h : TmInv s) (hst : s.tm.st = .idle) (hc : c ∈ s.tm.q) :
    Conserves s (taken c s) := by
  obtain ⟨hcur, -, -, -, -, hq⟩ := h
  refine .of_ids ?_ ⟨[], (List.append_nil _).symm, rfl⟩
  rw [unsettledIds_of_cur rfl, unsettledIds_of_idle (hcur.mpr hst)]
  exact List.perm_append_comm.trans ((hq.perm_cons_filter hc).map _).symm

theorem conserves_dispatchTxn (cfg : Config) {s : State} {c : Txn} (h : Conserves s (taken c s)) :
    Conserves s (dispatchTxn cfg c s) := by
  unfold dispatchTxn
  split
  · exact h.trans (conserves_enterHandshake _)
  · exact h.trans (conserves_enterExecute cfg _)

theorem conserves_retryAttempt (cfg : Config) (s : State) : Conserves s (retryAttempt cfg s) := by
  unfold retryAttempt
  split
  · exact conserves_enterHandshake (disarm s)
  · exact conserves_enterExecute cfg (disarm s)

/-- Transactions `l` have left the queue and been reported; those that stay have kept their ids. -/
theorem conserves_reported {s t : State} {p : Txn → Bool} {o : TxnOutcome} {l : List Txn}
    (hl : l.Perm (s.tm.q.filter p)) (hq : t.tm.q.map (fun t => t.id) = (s.tm.q.filter fun t => !p t).map fun t => t.id)
    (hcur : t.tm.cur = s.tm.cur) (hevents : t.ports.events = s.ports.events ++ l.map fun t => Event.txnDone t.id o) :
    Conserves s t := by
  refine ⟨_, hevents, ?_⟩
  have hsplit : ((s.tm.q.filter fun t => !p t).map (fun t => t.id) ++ l.map fun t => t.id).Perm (s.tm.q.map fun t => t.id) := by
    rw [← List.map_append]
    exact ((hl.append_left _).trans (List.perm_append_comm.trans (List.filter_append_perm p _))).map _
  rw [doneIds_reports, unsettledIds, unsettledIds, hq, hcur, List.append_assoc]
  refine (List.perm_append_comm.append_left _).trans ?_
  rw [← List.append_assoc]
  exact hsplit.append_right _

theorem conserves_purge (p : Txn → Bool) (o : TxnOutcome) (s : State) : Conserves s (purge p o s) := by
  have hqueue : Conserves s (purgeQueue p o s) := by
    rw [purgeQueue_eq]
    exact conserves_reported (inOrder_perm ..) rfl rfl rfl
  unfold purge
  split
  · exact hqueue.trans (conserves_finalize o _)
  · exact hqueue

theorem conserves_sleepQueue (cfg : Config) (n : NodeId) (s : State) : Conserves s (sleepQueue cfg n s) := by
  rw [sleepQueue_eq]
  refine conserves_reported (inFreeOrder_perm ..) ?_ rfl rfl
  rw [List.map_map]
  exact List.map_congr_left fun t _ => retagQueued_id n t

theorem conserves_sleepCurrent (n : NodeId) (s : State) : Conserves s (sleepCurrent n s) := by
  rcases sleepCurrent_cases n s with ⟨-, he⟩ | ⟨c, hc, -, ⟨-, he⟩ | ⟨-, he⟩⟩
  · rw [he]; exact .refl s
  · rw [he]; exact conserves_settledWith hc _
  · rw [he]
    refine .of_ids ?_ ⟨[], (List.append_nil _).symm, rfl⟩
    rw [unsettledIds_of_idle rfl, unsettledIds_of_cur hc]
    exact ((qInsert_perm (retag c) s.tm.q).map fun t => t.id).trans (List.perm_append_comm (l₁ := [c.id]))

/-- `SYS.RESET` reports every transaction that is unsettled. -/
theorem conserves_sysReset (s : State) :
    Conserves s (answer .done (resetRegs (reportAll (.failure .driverDestroyed none) (unsettled s) s))) := by
  refine ⟨(unsettled s).map fun t => Event.txnDone t.id (.failure .driverDestroyed none), by rw [reportAll_eq]; rfl, ?_⟩
  rw [doneIds_reports, unsettledIds, unsettled, List.map_append]
  exact ((inOrder_perm ..).map _).append_right _

/-- The record that `TM.ADD` queues is a transaction more; nothing is settled. -/
theorem addTxn_unsettledIds (t : TxnSpec) (s : State) :
    Conserves s (addTxn t s) ∨
      ((addTxn t s).ports.events = s.ports.events ∧ (unsettledIds (addTxn t s).tm).Perm (t.id :: unsettledIds s.tm)) := by
  rcases addTxn_cases t s with ⟨e, he⟩ | ⟨-, he⟩
  · rw [he]; exact .inl (tmKept_raise e s).conserves
  · rw [he]; exact .inr ⟨rfl, ((qInsert_perm (txnOfSpec t s.seq) s.tm.q).map fun t => t.id).append_right _⟩

/-- Every instruction but `TM.ADD` conserves the ids. -/
theorem conserves_exec {i : Instr} {s : State} (hs : TmInv s) (hi : ∀ t, i ≠ .tmAdd t) :
    Leaves (Conserves s) (exec i s) := by
  cases i with
  | ack => exact leaves_next (conserves_linkAck _ (consume 1 s))
  | nak => exact leaves_next (conserves_linkNak (consume 1 s))
  | can => exact leaves_next (conserves_linkCan (consume 1 s))
  | dataReq funcId payload => exact leaves_next (conserves_msg _ _ (acceptFrame _ s))
  | dataRes funcId payload => exact leaves_next (conserves_msg _ _ (acceptFrame _ s))
  | rxByte b => exact leaves_next (conserves_receiveByte _ b s)
  | tmDispatch =>
    exact leaves_tmDispatch fun c hst hn => conserves_dispatchTxn _ (conserves_taken hs hst (nextTxn_spec hn).1)
  | tmTimeoutAck => exact leaves_ite (conserves_fail _ s)
  | tmTimeoutResp => exact leaves_ite (conserves_fail _ s)
  | tmTimeoutUpd => exact leaves_ite (conserves_fail _ s)
  | tmTimeoutRetry => exact leaves_ite (conserves_retryAttempt _ s)
  | sysReset => exact leaves_next (conserves_sysReset s)
  | sysDestroy => exact leaves_next (conserves_purge _ _ s)
  | tmAdd t => exact absurd rfl (hi t)
  | tmReject p reason => exact leaves_next (conserves_purge _ _ s)
  | tmNodeAsleep n => exact leaves_next ((conserves_sleepQueue _ n s).trans (conserves_sleepCurrent n _))
  | _ => exact (tmKept_exec s rfl).mono fun _ h => h.conserves

/-- Settles O55: by whether the instruction is a `TM.ADD`. -/
theorem transactionsConserved : Obligations.TransactionsConserved := by
  intro i s t hs h
  by_cases hi : ∃ t0, i = .tmAdd t0
  · obtain ⟨t0, rfl⟩ := hi
    cases h
    rcases addTxn_unsettledIds t0 s with ⟨l, hl, hp⟩ | ⟨hevents, hp⟩
    · exact ⟨l, hl, .inl hp⟩
    · exact ⟨[], by rw [hevents, List.append_nil], .inr ⟨t0, rfl, rfl, hp⟩⟩
  · obtain ⟨l, hl, hp⟩ := conserves_exec hs (not_exists.mp hi) t h
    exact ⟨l, hl, .inl hp⟩

end Sys2Proof.Machine

/-! SUPPORT. `Compare` as an order (spec/45_host_boundary.md R302): the rank as one condition, and what a weak order that the
stamps make total gives. -/

namespace Sys2Proof.Machine

/-- A weak order is irreflexive. -/
theorem weakOrder.irrefl {lt : Txn → Txn → Bool} (h : weakOrder lt) (a : Txn) : lt a a = false := by
  by_contra ha
  exact ha (h.1 a a (Bool.eq_true_of_not_eq_false ha))

/-- A weak order is transitive: were `a` not before `c`, then, `c` not being before `b`, `a` would not be before `b`. -/
theorem weakOrder.trans {lt : Txn → Txn → Bool} (h : weakOrder lt) {a b c : Txn} (hab : lt a b = true)
    (hbc : lt b c = true) : lt a c = true := by
  by_contra hac
  have hba : lt a b = false := h.2 b c a (h.1 b c hbc) (Bool.eq_false_of_not_eq_true hac)
  exact Bool.false_ne_true (hba.symm.trans hab)

/-- The rank is 0 for a node-query transaction whose node is listening, and 1 for any other. -/
theorem rank_eq (p : HostPins) (t : Txn) :
    rank p t = if t.priority = 3 ∧ t.node.any (fun n => p.listening.contains n) then 0 else 1 := by
  unfold rank
  by_cases hprio : t.priority = Config.prioNodeQuery
  · have h3 : t.priority = 3 := hprio
    cases hnode : t.node with
    | none => simp
    | some n => simp [h3, Config.prioNodeQuery, listening]
  · have h3 : t.priority ≠ 3 := hprio
    simp [hprio, h3]

/-- Of two transactions with different stamps one sorts before the other. -/
theorem sortsBefore_total (p : HostPins) {a b : Txn} (h : a.created ≠ b.created) :
    sortsBefore p a b = true ∨ sortsBefore p b a = true := by
  rw [sortsBefore_eq_true, sortsBefore_eq_true]
  omega

/-- Settles O47: the order is read off `sortsBefore_eq_true`, and its laws are those of a weak order that distinct stamps
make total. -/
theorem compareOrder : Obligations.CompareOrder := by
  refine ⟨fun p a b => ?lexicographic, fun p => (sortsBefore_weakOrder p).irrefl,
    fun p _ _ _ => (sortsBefore_weakOrder p).trans, fun p a b hne => ?total⟩
  case lexicographic =>
    simp only [← rank_eq]
    exact sortsBefore_eq_true
  case total =>
    rcases sortsBefore_total p hne with h | h
    · rw [h, (sortsBefore_weakOrder p).1 a b h, Bool.not_false]
    · rw [h, (sortsBefore_weakOrder p).1 b a h, Bool.not_true]

end Sys2Proof.Machine

/-! SUPPORT. The two system commands that settle everything (spec/70_reset_and_hazards.md R381, R382): both report the
transactions of `unsettled`, in its order. -/

namespace Sys2Proof.Machine

/-- A purge of all transactions empties the queue, ends the current one and reports every one that was unsettled, in the
order of `SYS.RESET`. -/
theorem purge_all (o : TxnOutcome) (s : State) :
    purge (fun _ => true) o s = { s with
      tm := { (if s.tm.cur.isSome then idleRegs s.tm else s.tm) with q := [] },
      ports.events := s.ports.events ++ (unsettled s).map fun t => Event.txnDone t.id o } := by
  have hqueue : s.tm.q.filter (fun _ => true) = s.tm.q := List.filter_true s.tm.q
  have hrest : s.tm.q.filter (fun _ => !true) = [] := List.filter_false s.tm.q
  have hcur : s.tm.cur.filter (fun _ => true) = s.tm.cur := by cases s.tm.cur <;> rfl
  rw [purge_eq, hqueue, hrest, hcur, unsettled]

/-- Settles O4: the reports are those of `unsettled`, and then no register keeps its value. -/
theorem sysResetSettlesAndResets : Obligations.SysResetSettlesAndResets := by
  intro s
  refine ⟨inOrder s.pins s.tm.q, inOrder_comparedList s.pins s.tm.q, ?_⟩
  rw [exec, execSysReset, reportAll_eq, unsettled]
  rfl

/-- Settles O5: a purge of all transactions, after which only `LIFE` is written. -/
theorem sysDestroySettlesAndEnds : Obligations.SysDestroySettlesAndEnds := by
  intro s
  refine ⟨inOrder s.pins s.tm.q, inOrder_comparedList s.pins s.tm.q, ?_⟩
  rw [exec, execSysDestroy, purge_all, unsettled]
  rfl

end Sys2Proof.Machine

/-! SUPPORT. The key registers at reset (spec/10_state.md R31; log entry 12). -/

namespace Sys2Proof.Machine

/-- Settles O2: each key register of `State.reset` is `resetKey`, the model's sixteen zero bytes. -/
theorem resetKeyRegisters : Obligations.ResetKeyRegisters := ⟨rfl, rfl, rfl⟩

end Sys2Proof.Machine
